-- ==== Sys2Proof/Word.lean ====
section
/-! DEFINITION. The word types of the block, with the widths of `spec/00_scope.md` R7 and
`spec/30_encoding.md` R40, R41. -/

namespace Sys2Proof

/-- A byte: 8 bits (20_memory.md R30). -/
abbrev Byte := BitVec 8

/-- A command word `cmd[15:0]` (30_encoding.md R40; `CMD_WIDTH` = 16). -/
abbrev CommandWord := BitVec 16

/-- The value of the CRC register (41_crc.md R50; `CRC_WIDTH` = 16). -/
abbrev CrcWord := BitVec 16

/-- The data part `rsp_data[31:0]` of a response (30_encoding.md R41; `RSP_DATA_WIDTH` = 32). -/
abbrev ResponseData := BitVec 32

end Sys2Proof
end

