-- ==== Sys2Proof/Syntax.lean ====
section
/-! DEFINITION. The command set, one constructor per row of `spec/opcode_table.json`
(30_encoding.md R42, R49), and the assembly lines and pseudo-commands of R47 and R48. -/

namespace Sys2Proof

/-- The thirteen commands of 30_encoding.md R42. Operands are unsigned and used as they stand (R43):
`b` a byte, `s` a 3-bit selector, `k` a 4-bit multiplier. -/
inductive Instr where
  | crcInit
  | crcByte (b : Byte)
  | crcRead
  | frmClear
  | frmPush (b : Byte)
  | frmStart
  | frmNext
  | frmStat
  | timBaud (s : BitVec 3)
  | timMult (k : BitVec 4)
  | timRdmin
  | timRdint
  | timRdchoice (k : BitVec 4)
  deriving DecidableEq, Repr

/-- The thirteen mnemonics of 30_encoding.md R42, without their operands. -/
inductive Mnemonic where
  | crcInit | crcByte | crcRead
  | frmClear | frmPush | frmStart | frmNext | frmStat
  | timBaud | timMult | timRdmin | timRdint | timRdchoice
  deriving DecidableEq, Repr

/-- The mnemonics in the order of the opcode map. -/
def Mnemonic.all : List Mnemonic :=
  [.crcInit, .crcByte, .crcRead, .frmClear, .frmPush, .frmStart, .frmNext, .frmStat,
   .timBaud, .timMult, .timRdmin, .timRdint, .timRdchoice]

/-- The mnemonic of a command. -/
def Instr.mnemonic : Instr → Mnemonic
  | .crcInit => .crcInit
  | .crcByte _ => .crcByte
  | .crcRead => .crcRead
  | .frmClear => .frmClear
  | .frmPush _ => .frmPush
  | .frmStart => .frmStart
  | .frmNext => .frmNext
  | .frmStat => .frmStat
  | .timBaud _ => .timBaud
  | .timMult _ => .timMult
  | .timRdmin => .timRdmin
  | .timRdint => .timRdint
  | .timRdchoice _ => .timRdchoice

/-- One line of assembly after lexing: a mnemonic and at most one numeral, not yet checked against
the width of its field (30_encoding.md R47; the check is `AsmLine.wellFormed`). -/
structure AsmLine where
  mnemonic : Mnemonic
  operand : Option Nat
  deriving DecidableEq, Repr

/-- The five pseudo-commands of 30_encoding.md R48. -/
inductive Pseudo where
  | crc16 (bytes : List Byte)
  | payload (bytes : List Byte)
  | emit
  | frame (bytes : List Byte)
  | interval (s : BitVec 3) (k : BitVec 4)
  deriving DecidableEq, Repr

end Sys2Proof
end

