-- ==== Sys2Proof/WellFormed.lean ====
section
/-! DEFINITION. Well-formedness. A value of `Instr` is well formed by its type: each operand has the
width of its field (30_encoding.md R43). What can be ill formed is an assembly line (R47): its
operand may be missing, superfluous or too large for its field. -/

namespace Sys2Proof

/-- The width of the operand field of a command, 0 where it takes none (30_encoding.md R42). -/
def Mnemonic.operandBits : Mnemonic → Nat
  | .crcByte | .frmPush => 8
  | .timBaud => 3
  | .timMult | .timRdchoice => 4
  | .crcInit | .crcRead | .frmClear | .frmStart | .frmNext | .frmStat | .timRdmin | .timRdint => 0

/-- An assembly line has an encoding: an operand exactly where the command takes one, and one that
fits its field (30_encoding.md R47: "an operand too large for its field ... is an assembly error"; that
a missing or a superfluous one is an error too is log 16). -/
def AsmLine.wellFormed (l : AsmLine) : Bool :=
  match l.operand with
  | none => l.mnemonic.operandBits == 0
  | some n => l.mnemonic.operandBits != 0 && decide (n < 2 ^ l.mnemonic.operandBits)

end Sys2Proof
end

