-- ==== Sys2Proof/Decode.lean ====
section
/-! DEFINITION. Decoding and encoding of command words (`spec/30_encoding.md`). Decoding is total and
depends on the word alone (R45). -/

namespace Sys2Proof

/-- Why a word is no command (30_encoding.md R44, 60_exceptions.md R101). -/
inductive IllegalWord where
  /-- The opcode is 0x0, 0xE or 0xF. -/
  | reservedOpcode (op : BitVec 4)
  /-- The opcode is a command's, and a bit of `arg` that the command does not use is 1. -/
  | unusedBitsSet (op : BitVec 4) (arg : BitVec 12)
  deriving DecidableEq, Repr

/-- `op = cmd[15:12]` (R40). -/
def opField (w : CommandWord) : BitVec 4 := w.extractLsb' 12 4

/-- `arg = cmd[11:0]` (R40). -/
def argField (w : CommandWord) : BitVec 12 := w.extractLsb' 0 12

/-- The operand `arg[n-1:0]` of a command, if the bits of `arg` above it are all 0 (R42). -/
def operandField (n : Nat) (w : CommandWord) : Except IllegalWord (BitVec n) :=
  if (argField w).toNat < 2 ^ n then .ok ((argField w).setWidth n)
  else .error (.unusedBitsSet (opField w) (argField w))

/-- A command without an operand: the whole of `arg` is unused and must be 0 (R42). -/
def noOperand (w : CommandWord) (i : Instr) : Except IllegalWord Instr :=
  if argField w = 0 then .ok i else .error (.unusedBitsSet (opField w) (argField w))

/-- The decoder (R42, R44, R45). -/
def decode (w : CommandWord) : Except IllegalWord Instr :=
  match (opField w).toNat with
  | 0x1 => noOperand w .crcInit
  | 0x2 => (operandField 8 w).map .crcByte
  | 0x3 => noOperand w .crcRead
  | 0x4 => noOperand w .frmClear
  | 0x5 => (operandField 8 w).map .frmPush
  | 0x6 => noOperand w .frmStart
  | 0x7 => noOperand w .frmNext
  | 0x8 => noOperand w .frmStat
  | 0x9 => (operandField 3 w).map .timBaud
  | 0xA => (operandField 4 w).map .timMult
  | 0xB => noOperand w .timRdmin
  | 0xC => noOperand w .timRdint
  | 0xD => (operandField 4 w).map .timRdchoice
  | _ => .error (.reservedOpcode (opField w))

/-- One row of the opcode map (R42): a word selects the command when `cmd and mask = match`. -/
structure OpcodeRow where
  mnemonic : Mnemonic
  matchBits : CommandWord
  mask : CommandWord
  deriving DecidableEq, Repr

/-- The row of a mnemonic, as R42 prints it. -/
def opcodeRow : Mnemonic → OpcodeRow
  | .crcInit => ⟨.crcInit, 0x1000, 0xFFFF⟩
  | .crcByte => ⟨.crcByte, 0x2000, 0xFF00⟩
  | .crcRead => ⟨.crcRead, 0x3000, 0xFFFF⟩
  | .frmClear => ⟨.frmClear, 0x4000, 0xFFFF⟩
  | .frmPush => ⟨.frmPush, 0x5000, 0xFF00⟩
  | .frmStart => ⟨.frmStart, 0x6000, 0xFFFF⟩
  | .frmNext => ⟨.frmNext, 0x7000, 0xFFFF⟩
  | .frmStat => ⟨.frmStat, 0x8000, 0xFFFF⟩
  | .timBaud => ⟨.timBaud, 0x9000, 0xFFF8⟩
  | .timMult => ⟨.timMult, 0xA000, 0xFFF0⟩
  | .timRdmin => ⟨.timRdmin, 0xB000, 0xFFFF⟩
  | .timRdint => ⟨.timRdint, 0xC000, 0xFFFF⟩
  | .timRdchoice => ⟨.timRdchoice, 0xD000, 0xFFF0⟩

/-- The opcode map of R42, thirteen rows. -/
def opcodeTable : List OpcodeRow := Mnemonic.all.map opcodeRow

/-- A word selects a row of the opcode map (R42). -/
def OpcodeRow.selects (r : OpcodeRow) (w : CommandWord) : Bool := w &&& r.mask == r.matchBits

/-- The operand of a command, zero-extended to the width of the word (R43, R47). -/
def operandBitsOf : Instr → CommandWord
  | .crcByte b | .frmPush b => b.setWidth 16
  | .timBaud s => s.setWidth 16
  | .timMult k | .timRdchoice k => k.setWidth 16
  | .crcInit | .crcRead | .frmClear | .frmStart | .frmNext | .frmStat | .timRdmin | .timRdint => 0

/-- The encoder: `op ‖ zext_12(operand)` (R47), from the match values of R42. -/
def encode (i : Instr) : CommandWord := (opcodeRow i.mnemonic).matchBits ||| operandBitsOf i

/-- The instruction the decoder reads from the low `nbits` bits of `w`: a command is one 16-bit word
on the port (R40), so a longer one does not exist (log 17). -/
def decodeTableWord (nbits w : Nat) : Option Instr :=
  if nbits ≤ 16 ∧ w < 2 ^ nbits then
    match decode (BitVec.ofNat 16 w) with
    | .ok i => some i
    | .error _ => none
  else none

/-- The command of a well-formed assembly line (R47); none for an assembly error. -/
def AsmLine.toInstr (l : AsmLine) : Option Instr :=
  if l.wellFormed then
    let n := l.operand.getD 0
    match l.mnemonic with
    | .crcInit => some .crcInit
    | .crcByte => some (.crcByte (BitVec.ofNat 8 n))
    | .crcRead => some .crcRead
    | .frmClear => some .frmClear
    | .frmPush => some (.frmPush (BitVec.ofNat 8 n))
    | .frmStart => some .frmStart
    | .frmNext => some .frmNext
    | .frmStat => some .frmStat
    | .timBaud => some (.timBaud (BitVec.ofNat 3 n))
    | .timMult => some (.timMult (BitVec.ofNat 4 n))
    | .timRdmin => some .timRdmin
    | .timRdint => some .timRdint
    | .timRdchoice => some (.timRdchoice (BitVec.ofNat 4 n))
  else none

end Sys2Proof
end

