-- ==== Sys2Proof/Config.lean ====
section
/-! DEFINITION. The constants of `spec/00_scope.md` R6, which no command changes (10_state.md R20),
and the parameters of R7. `SINK` is no constant: each answer of the sink is data of an input
(`Machine.Input.loop`, log 8). -/

namespace Sys2Proof.Config

/-- The identity string of the block: the option letters C, F and T, all present (R1). -/
def identity : String := "ex2_obc_sdr-cft"

/-- `CRC_POLY`, the generator polynomial with the x^16 term implicit. -/
def crcPoly : CrcWord := 0x1021

/-- `CRC_INIT`, the register value at the start of every computation. -/
def crcInit : CrcWord := 0xFFFF

/-- `CRC_XOROUT`. (`CRC_REFIN` and `CRC_REFOUT` are false: no function of the model reflects.) -/
def crcXorOut : CrcWord := 0x0000

/-- `PREAMBLE_BYTE`. -/
def preambleByte : Byte := 0xAA

/-- `PREAMBLE_LEN`. -/
def preambleLen : Nat := 5

/-- `SYNC_BYTE`. -/
def syncByte : Byte := 0x7E

/-- `SYNC_LEN`. -/
def syncLen : Nat := 1

/-- `LENGTH_LEN`. -/
def lengthLen : Nat := 1

/-- `CHECKSUM_LEN`. -/
def checksumLen : Nat := 2

/-- `MAX_PAYLOAD_LEN`, the greatest payload length the framer accepts. -/
def maxPayloadLen : Nat := 255

/-- `GUARD_RATIO` = 3/2, held as an exact rational: its numerator. -/
def guardNum : Nat := 3

/-- `GUARD_RATIO` = 3/2: its denominator. -/
def guardDen : Nat := 2

/-- `BAUD_TABLE`, in the order of the selector values 0 to 5 (10_state.md R16). -/
def baudTable : Vector Nat 6 := #v[600, 1200, 2400, 4800, 9600, 19200]

/-- `MULT_MIN`. -/
def multMin : Nat := 1

/-- `MULT_MAX`. -/
def multMax : Nat := 10

/-- `DURATION_MAX`, seconds, host side. -/
def durationMax : Int := 300

/-- The value R7 and 92_eei_decisions.md D15 decide for `MAX_PAYLOAD_BYTES`. It stays a parameter: the
interval functions take it as an argument, and the machine reads it from `Machine.State.maxPayloadBytes`,
which is this value in `Machine.State.reset` (log 7). -/
def maxPayloadBytes : Nat := 255

/-- The six catalog commands of 42_catalog.md R60. -/
inductive CatalogCommand where
  | readStatusControlWord
  | enableBeacons
  | disableBeacons
  | setBeaconPeriod
  | readUptime
  | readReceivedPacketCount
  deriving DecidableEq, Repr

/-- The identifier of a catalog command (42_catalog.md R60). -/
def CatalogCommand.identifier : CatalogCommand → String
  | .readStatusControlWord => "ReadStatusControlWord"
  | .enableBeacons => "EnableBeacons"
  | .disableBeacons => "DisableBeacons"
  | .setBeaconPeriod => "SetBeaconPeriod"
  | .readUptime => "ReadUptime"
  | .readReceivedPacketCount => "ReadReceivedPacketCount"

/-- The human-readable description of a catalog command (42_catalog.md R60). No source lists one (R61),
so nothing is known of them here (log 12). -/
opaque CatalogCommand.description : CatalogCommand → String

/-- `CATALOG` (R7, 42_catalog.md R61): the payload bytes are in no source, so nothing is known of
them here (log 12). -/
opaque catalog : CatalogCommand → List Byte

/-- The one premise about the catalog that R61 lets a model assume. -/
def CatalogBounded : Prop := ∀ c, (catalog c).length ≤ maxPayloadLen

/-- `ON_AIR_BIT_ORDER` (R7, 20_memory.md R36): which bit of a frame byte a modulator sends at which
place. It is open, outside the block, and no rule depends on it (log 13). -/
opaque onAirBitOrder : Fin 8 → Fin 8

end Sys2Proof.Config
end

