-- ==== Sys2Proof/Machine/State.lean ====
section
/-! DEFINITION. The state of the machine: the block's seven items (`spec/10_state.md` R10), the port
(30_encoding.md R40, R41) and the host agent's run (45_scheduler.md R92). Each field's type holds
exactly the legal values of R10's table (93_implementation_defined.md I8, log 5). -/

namespace Sys2Proof.Machine

/-- `PHASE`, 3 bits (10_state.md R14). The value 7 never occurs and is not in the type. -/
inductive Phase where
  | idle | preamble | sync | length | payload | crcHi | crcLo
  deriving DecidableEq, Repr

/-- `BAUDSEL`, 3 bits (10_state.md R16): the selectors 0 to 5, or the value 7, "none selected". The
value 6 never occurs and is not in the type. -/
inductive BaudSel where
  | unselected
  | selected (s : Fin 6)
  deriving DecidableEq, Repr

/-- Cells of `PBUF` (10_state.md R12), address first. Addresses rise strictly, and no cell is listed
that holds what an unlisted one reads as (`Memory.wf`, log 3). -/
abbrev Memory := List Host.Cell

/-- The whole architectural state of the block: seven items "and nothing else" (10_state.md R10). -/
structure Block where
  /-- `CRC`, the working register shared by the CRC and FRM units (R11). -/
  crc : CrcWord
  /-- `PBUF[0..254]`, the payload buffer (R12). -/
  pbuf : Memory
  /-- `PLEN`, bytes pushed, saturating at 256 (R13). -/
  plen : Fin 257
  /-- `PHASE`, the sequencer's phase (R14). -/
  phase : Phase
  /-- `IDX`, the index within the phase (R15). -/
  idx : Fin 255
  /-- `BAUDSEL`, the link-rate selector (R16). -/
  baudSel : BaudSel
  /-- `MULT`, the interval multiplier; 0 means none selected (R17). -/
  mult : Fin 11
  deriving DecidableEq, Repr

/-- The six synchronous errors of 60_exceptions.md R100. -/
inductive ErrorCause where
  | illegalCommand | payloadTooLarge | inputRange | busy | noFrame | notConfigured
  deriving DecidableEq, Repr

/-- `rsp_status`: the seven outcomes of 60_exceptions.md R100. Codes 7 to 15 are never produced and
are not in the type. -/
inductive Status where
  | ok
  | error (cause : ErrorCause)
  deriving DecidableEq, Repr

/-- A response: `rsp_status` and `rsp_data` (30_encoding.md R41). -/
structure Response where
  status : Status
  data : ResponseData
  deriving DecidableEq, Repr

/-- What the host or the environment does to the machine next. The first four are what
70_reset_and_hazards.md R127 lets happen; the last three are what R127 assumes never to happen, and
the machine refuses them (log 9). -/
inductive Input where
  /-- The host issues a command word (30_encoding.md R40). -/
  | command (w : CommandWord)
  /-- The input `rst`, between two commands (70_reset_and_hazards.md R115). -/
  | reset
  /-- The host asks for a transmission run of a frame (45_scheduler.md R90, R91). -/
  | beginRun (durationSeconds intervalMillis : Int) (frame : List Byte)
  /-- The host evaluates its loop condition and, if it holds, goes round once; `sendOk` is the sink's
  answer to that iteration's `send`, the environment's choice (45_scheduler.md R93, R96). -/
  | loop (sendOk : Bool)
  /-- A second host drives this block instance (60_exceptions.md R114). -/
  | secondHost (w : CommandWord)
  /-- A command is issued before the previous response (70_reset_and_hazards.md R127). -/
  | earlyCommand (w : CommandWord)
  /-- `rst` arrives in the middle of the step of a command (70_reset_and_hazards.md R127). -/
  | resetMidCommand (w : CommandWord)
  deriving DecidableEq, Repr

/-- A TransmissionPlan (45_scheduler.md R90), host side. -/
structure Plan where
  durationSeconds : Int
  intervalMillis : Int
  frame : List Byte
  deriving DecidableEq, Repr

/-- A TransmissionSession (45_scheduler.md R92), host side, with the plan it consumes.
`remainingBudgetMillis` is signed: it can go negative on the last iteration. -/
structure Session where
  plan : Plan
  remainingBudgetMillis : Int
  packetsSent : Nat
  deriving DecidableEq, Repr

/-- How a run the host asked for ended. -/
inductive RunResult where
  /-- The plan was out of bounds and was never constructed (45_scheduler.md R91). -/
  | rejected
  /-- `run` returned its packet count (R94). -/
  | completed (packetsSent : Nat)
  /-- A `send` failed and the loop stopped; the count is of the sends that succeeded (R96). -/
  | transportError (packetsSent : Nat)
  deriving DecidableEq, Repr

/-- The host agent's side (10_state.md R25: none of it is block state). -/
structure HostSide where
  /-- The session of the run under way, if there is one. -/
  session : Option Session
  /-- How the runs so far ended, oldest first. -/
  runs : List RunResult
  /-- The frames the sink accepted, oldest first (45_scheduler.md R96). -/
  sent : List (List Byte)
  deriving DecidableEq, Repr

/-- The machine: the block, its port, and the host agent. -/
structure State where
  /-- The block (10_state.md R10). -/
  block : Block
  /-- `MAX_PAYLOAD_BYTES`, a parameter of the machine and no register: no step changes it. It is held here
  because `step` has no other argument (00_scope.md R7; 0 to 255, 44_timing.md R85; log 7). -/
  maxPayloadBytes : Fin 256
  /-- The model's own: what the host and the environment do next, oldest first (log 1). -/
  inputs : List Input
  /-- The model's own: the responses given so far, oldest first (log 1). -/
  responses : List Response
  /-- The host agent (log 8). -/
  host : HostSide
  deriving DecidableEq, Repr

/-- Reasons for which the machine stops with a fault. No reachable state has one. -/
inductive Fault where
  /-- Raised by `FRM.NEXT` where `IDX + 1` would leave 0 to 254. 10_state.md R28 (b) says this never
  happens; it needs a state that R26 excludes. Safe (log 6). -/
  | idxOverflow
  deriving DecidableEq, Repr

/-- Reasons for which the machine gives an input no meaning. -/
inductive Refusal where
  /-- Raised by an arm of `exec` whose instruction has no meaning yet. Safe. -/
  | notModelled (mnemonic : String)
  /-- Raised by `step`: "two hosts driving one instance is not a configuration this spec gives a
  meaning to, and a model should refuse it" (60_exceptions.md R114). Safe (log 9). -/
  | secondHost
  /-- Raised by `step`: a command before the previous response (93_implementation_defined.md I10).
  Safe (log 9). -/
  | commandBeforeResponse
  /-- Raised by `step`: a reset in the middle of a command's step (70_reset_and_hazards.md R127).
  Safe (log 9). -/
  | resetMidCommand
  /-- Raised by `beginRun`: the one host actor begins a run inside a run (45_scheduler.md R90, R92).
  Safe (log 9). -/
  | runInProgress
  /-- Raised by `loopOnce`: the host goes round a loop it is not in. Safe (log 9). -/
  | noRunInProgress
  deriving DecidableEq, Repr

/-- The reset state of the block (10_state.md R27, 70_reset_and_hazards.md R116). No cell of `PBUF`
is listed: its contents are unspecified and unobservable there (log 3). -/
def Block.reset : Block where
  crc := 0xFFFF
  pbuf := []
  plen := 0
  phase := .idle
  idx := 0
  baudSel := .unselected
  mult := 0

/-- The host agent before it has done anything (log 22). -/
def HostSide.reset : HostSide where
  session := none
  runs := []
  sent := []

/-- The machine right after reset: nothing on the port, no run (log 22), and the parameter at the value
the spec decides (log 7). -/
def State.reset : State where
  block := Block.reset
  maxPayloadBytes := ⟨Config.maxPayloadBytes, by decide⟩
  inputs := []
  responses := []
  host := HostSide.reset

end Sys2Proof.Machine
end

