-- ==== Sys2Proof/Machine/Ops.lean ====
section
/-! DEFINITION. The named operations over the state: the payload buffer, the registers, the response
that ends every command, and the one shared way an error is taken (`spec/00_scope.md` section 5.2,
`spec/60_exceptions.md` R107). -/

namespace Sys2Proof.Machine

/-- The answer of a meaning: a next state, a fault or a refusal. -/
abbrev Result := Host.Outcome State Fault Refusal

/-! ## The payload buffer -/

/-- What a cell of `PBUF` that is not listed reads as (log 3: the spec leaves it unspecified). -/
def unlistedByte : Byte := 0x00

/-- The number of cells of `PBUF` (10_state.md R12). -/
def pbufSize : Nat := 255

/-- The byte at an index. -/
def Memory.read : Memory → Nat → Byte
  | [], _ => unlistedByte
  | (a, v) :: rest, i => if a = i then v else Memory.read rest i

/-- A cell put in its place by address. -/
def Memory.insertCell (c : Host.Cell) : Memory → Memory
  | [] => [c]
  | d :: rest => if c.1 < d.1 then c :: d :: rest else d :: Memory.insertCell c rest

/-- Write the byte at an index, keeping the canonical form: the old cell goes, and the new one is
listed unless it holds what an unlisted one reads as. -/
def Memory.write (m : Memory) (i : Nat) (v : Byte) : Memory :=
  let others := m.filter (fun c => c.1 != i)
  if v = unlistedByte then others else Memory.insertCell (i, v) others

/-- The canonical form: addresses strictly rising, all of them cells of `PBUF`, and no cell listed
that holds what an unlisted one reads as. -/
abbrev Memory.wf (m : Memory) : Prop :=
  m.Pairwise (fun c d => c.1 < d.1) ∧ ∀ c ∈ m, c.1 < pbufSize ∧ c.2 ≠ unlistedByte

/-- `PBufRead(i)` (00_scope.md section 5.2). The index type has the 255 indices there are. -/
def Block.pbufRead (b : Block) (i : Fin 255) : Byte := Memory.read b.pbuf i.val

/-- `PBufWrite(i, v)` (00_scope.md section 5.2). -/
def Block.pbufWrite (b : Block) (i : Fin 255) (v : Byte) : Block :=
  { b with pbuf := Memory.write b.pbuf i.val v }

/-- The first `n` bytes of the buffer, `PBUF[0..n-1]`. -/
def Block.pbufPrefix (b : Block) (n : Nat) : List Byte := (List.range n).map (Memory.read b.pbuf)

/-- The payload of the next frame, `PBUF[0..PLEN-1]` (10_state.md R13). -/
def Block.payload (b : Block) : List Byte := b.pbufPrefix b.plen.val

/-! ## The registers -/

/-- `CRC <- c`. -/
def State.setCrc (s : State) (c : CrcWord) : State := { s with block := { s.block with crc := c } }

/-- `PLEN <- n`. -/
def State.setPlen (s : State) (n : Fin 257) : State := { s with block := { s.block with plen := n } }

/-- `PBUF[i] <- v`. -/
def State.setPbuf (s : State) (i : Fin 255) (v : Byte) : State :=
  { s with block := s.block.pbufWrite i v }

/-- `PHASE <- p; IDX <- i`: the sequencer moves. -/
def State.setSequencer (s : State) (p : Phase) (i : Fin 255) : State :=
  { s with block := { s.block with phase := p, idx := i } }

/-- `BAUDSEL <- r`. -/
def State.setBaudSel (s : State) (r : BaudSel) : State :=
  { s with block := { s.block with baudSel := r } }

/-- `MULT <- k`. -/
def State.setMult (s : State) (k : Fin 11) : State := { s with block := { s.block with mult := k } }

/-- `IDX + 1`, where it is an index (10_state.md R28 (b)); none where it would leave 0 to 254. -/
def idxSucc (i : Fin 255) : Option (Fin 255) :=
  if h : i.val + 1 < 255 then some ⟨i.val + 1, h⟩ else none

/-! ## Codes of the register values, as `FRM.STAT` and the response port show them -/

/-- The 3-bit code of `PHASE` (10_state.md R14). -/
def phaseCode : Phase → BitVec 3
  | .idle => 0
  | .preamble => 1
  | .sync => 2
  | .length => 3
  | .payload => 4
  | .crcHi => 5
  | .crcLo => 6

/-- The 3-bit code of `BAUDSEL` (10_state.md R16); 7 is "none selected". -/
def baudSelCode : BaudSel → BitVec 3
  | .unselected => 7
  | .selected s => BitVec.ofNat 3 s.val

/-- The 4-bit code of `MULT` (10_state.md R17); 0 is "none selected". -/
def multCode (m : Fin 11) : BitVec 4 := BitVec.ofNat 4 m.val

/-- The 9-bit code of `PLEN` (10_state.md R13). -/
def plenCode (n : Fin 257) : BitVec 9 := BitVec.ofNat 9 n.val

/-- The 8-bit code of `IDX` (10_state.md R15). -/
def idxCode (i : Fin 255) : BitVec 8 := BitVec.ofNat 8 i.val

/-- The 4-bit code of `rsp_status` (60_exceptions.md R100). -/
def statusCode : Status → BitVec 4
  | .ok => 0
  | .error .illegalCommand => 1
  | .error .payloadTooLarge => 2
  | .error .inputRange => 3
  | .error .busy => 4
  | .error .noFrame => 5
  | .error .notConfigured => 6

/-! ## Responses and errors -/

/-- `respond(status, data)`: ends the command's step with its one response (30_encoding.md R41). -/
def respond (st : Status) (d : ResponseData) (s : State) : Result :=
  .next { s with responses := s.responses ++ [⟨st, d⟩] }

/-- `respond(OK, d)`. -/
def respondOk (d : ResponseData) (s : State) : Result := respond .ok d s

/-- Taking an error (60_exceptions.md R107): "write no state at all, then respond(code(Error), 0)".
Nothing is saved, no mode changes, nothing is latched, and there is nothing to return from (R108):
the next input is taken by its ordinary rule. -/
def raise (e : ErrorCause) (s : State) : Result := respond (.error e) 0 s

/-- `if PHASE != IDLE then raise Busy`, the guard of the five commands of 60_exceptions.md R104. -/
def whenIdle (s : State) (k : Result) : Result := if s.block.phase = .idle then k else raise .busy s

end Sys2Proof.Machine
end

