-- ==== Sys2Proof/Machine/Crc.lean ====
section
/-! DEFINITION. The CRC unit (`spec/41_crc.md`): the functions of its section 1 and the meanings of
CRC.INIT, CRC.BYTE and CRC.READ. -/

namespace Sys2Proof.Machine

/-! ## The function (R50 to R52) -/

/-- `crc_bit(c, d)` (R50; the step is the spec's general knowledge, G1, log 15). -/
def crcBit (c : CrcWord) (d : Bool) : CrcWord :=
  if (c.getMsbD 0 ^^ d) then (c <<< 1) ^^^ Config.crcPoly else c <<< 1

/-- `crc_byte(c, b)`: the eight bits of `b`, bit 7 first and bit 0 last (R51, 20_memory.md R35). -/
def crcByte (c : CrcWord) (b : Byte) : CrcWord :=
  [7, 6, 5, 4, 3, 2, 1, 0].foldl (fun c i => crcBit c (b.getLsbD i)) c

/-- The running register over a byte sequence, first byte first (R52). -/
def crcFold (c : CrcWord) (bs : List Byte) : CrcWord := bs.foldl crcByte c

/-- The result the register stands for: `CRC xor CRC_XOROUT` (R52, R55). -/
def crcResult (c : CrcWord) : CrcWord := c ^^^ Config.crcXorOut

/-- `crc16(s)` (R52). -/
def crc16 (bs : List Byte) : CrcWord := crcResult (crcFold Config.crcInit bs)

/-! ## The commands (R53 to R55) -/

/-- `CRC.INIT` (R53). -/
def execCrcInit (s : State) : Result :=
  whenIdle s (respondOk 0 (s.setCrc Config.crcInit))

/-- `CRC.BYTE b` (R54). -/
def execCrcByte (b : Byte) (s : State) : Result :=
  whenIdle s (respondOk 0 (s.setCrc (crcByte s.block.crc b)))

/-- `CRC.READ` (R55): permitted in every phase. -/
def execCrcRead (s : State) : Result :=
  respondOk ((crcResult s.block.crc).setWidth 32) s

end Sys2Proof.Machine
end

