-- ==== Sys2Proof/Machine/Flags.lean ====
section
/-! DEFINITION. The four status bits of `spec/10_state.md` R23, each a function of the state or of one
response, none of them stored. -/

namespace Sys2Proof.Machine

/-- `BUSY` = (`PHASE != IDLE`). -/
def Block.busy (b : Block) : Bool := b.phase != .idle

/-- `OVF` = `PLEN[8]`. -/
def Block.ovf (b : Block) : Bool := (plenCode b.plen).getLsbD 8

/-- `TVALID` = (`BAUDSEL <= 5`). -/
def Block.tvalid (b : Block) : Bool := (baudSelCode b.baudSel).toNat ≤ 5

/-- `last`: bit 8 of the data of a response of `FRM.NEXT`, set only on the `CRC_LO` byte. -/
def Response.last (r : Response) : Bool := r.data.getLsbD 8

/-- The response data of `FRM.NEXT` (30_encoding.md R46): `[7:0]` the frame byte, `[8]` = `last`. -/
def frameByteData (out : Byte) (last : Bool) : ResponseData :=
  out.setWidth 32 ||| (if last then 0x100 else 0)

/-- The frame byte of a response of `FRM.NEXT`: `rsp_data[7:0]` (43_framer.md R70). -/
def Response.frameByte (r : Response) : Byte := r.data.setWidth 8

/-- The response data of `FRM.STAT`: `zext_32(IDX ‖ PHASE ‖ PLEN)` (43_framer.md R71). -/
def Block.statusData (b : Block) : ResponseData :=
  (idxCode b.idx ++ phaseCode b.phase ++ plenCode b.plen).setWidth 32

end Sys2Proof.Machine
end

