-- ==== Sys2Proof/Machine/Framer.lean ====
section
/-! DEFINITION. The FRM unit (`spec/43_framer.md`): the frame as a function of the payload (section 1)
and the meanings of FRM.CLEAR, FRM.PUSH, FRM.START, FRM.NEXT and FRM.STAT (section 2). -/

namespace Sys2Proof.Machine

/-! ## The frame as a function (R65, R66, R73) -/

/-- `byte(n)`, for `n` up to 255 (00_scope.md section 5.1). -/
def byteOf (n : Nat) : Byte := BitVec.ofNat 8 n

/-- The more significant byte of a 16-bit value, `v[15:8]`. -/
def highByte (v : BitVec 16) : Byte := v.extractLsb' 8 8

/-- The less significant byte of a 16-bit value, `v[7:0]`. -/
def lowByte (v : BitVec 16) : Byte := v.extractLsb' 0 8

/-- `big_endian_u16(v)`: more significant byte first (20_memory.md R32). -/
def bigEndianU16 (v : BitVec 16) : List Byte := [highByte v, lowByte v]

/-- `lengthPrefixed = byte(len(payload)) ‖ payload` (R65). -/
def lengthPrefixed (p : List Byte) : List Byte := byteOf p.length :: p

/-- The checksum of a payload's frame: over the length byte and the payload, nothing else (R65). -/
def frameChecksum (p : List Byte) : CrcWord := crc16 (lengthPrefixed p)

/-- The five preamble bytes and the sync byte (R65). -/
def frameHeader : List Byte :=
  List.replicate Config.preambleLen Config.preambleByte ++
    List.replicate Config.syncLen Config.syncByte

/-- `frame(p)`, for `len(p) <= 255` (R65). -/
def frame (p : List Byte) : List Byte :=
  frameHeader ++ lengthPrefixed p ++ bigEndianU16 (frameChecksum p)

/-- The source's `buildFrame(payload)`: fails with `PayloadTooLarge` above 255 bytes (R65, R73). -/
def buildFrame (p : List Byte) : Except ErrorCause (List Byte) :=
  if p.length ≤ Config.maxPayloadLen then .ok (frame p) else .error .payloadTooLarge

/-! ## The commands (R67 to R71) -/

/-- `FRM.CLEAR` (R67): `PBUF` is not erased. -/
def execFrmClear (s : State) : Result :=
  whenIdle s (respondOk 0 (s.setPlen 0))

/-- The index `FRM.PUSH` stores to: `PLEN`, while there is room (R68); none where the byte is
discarded. -/
def pushIndex (b : Block) : Option (Fin 255) :=
  if h : b.plen.val < 255 then some ⟨b.plen.val, h⟩ else none

/-- `PLEN + 1` after a stored push (10_state.md R28 (a)): at most 255. -/
def plenSucc (i : Fin 255) : Fin 257 := ⟨i.val + 1, by omega⟩

/-- `FRM.PUSH b` (R68): the 256th byte and later ones are discarded, and `PLEN` stays at 256. -/
def execFrmPush (b : Byte) (s : State) : Result :=
  whenIdle s
    (match pushIndex s.block with
     | some i => respondOk 0 ((s.setPbuf i b).setPlen (plenSucc i))
     | none => respondOk 0 (s.setPlen 256))

/-- `FRM.START` (R69): `Busy` is checked before `PayloadTooLarge`. -/
def execFrmStart (s : State) : Result :=
  whenIdle s
    (if s.block.plen = 256 then raise .payloadTooLarge s
     else respondOk 0 ((s.setSequencer .preamble 0).setCrc Config.crcInit))

/-- The response of `FRM.NEXT` with a byte that is not the frame's last. -/
def emitByte (out : Byte) (s : State) : Result := respondOk (frameByteData out false) s

/-- `IDX <- IDX + 1`, the phase staying as it is, and the response with a byte (R70). -/
def advanceIdx (out : Byte) (s : State) : Result :=
  match idxSucc s.block.idx with
  | some i => emitByte out (s.setSequencer s.block.phase i)
  | none => .fault .idxOverflow

/-- `FRM.NEXT` in phase `PREAMBLE` (R70). -/
def nextPreamble (s : State) : Result :=
  if s.block.idx.val = Config.preambleLen - 1 then
    emitByte Config.preambleByte (s.setSequencer .sync 0)
  else advanceIdx Config.preambleByte s

/-- `FRM.NEXT` in phase `SYNC` (R70). -/
def nextSync (s : State) : Result :=
  emitByte Config.syncByte (s.setSequencer .length s.block.idx)

/-- The length byte, `PLEN[7:0]` (R70, 10_state.md R28 (d)). -/
def Block.lengthByte (b : Block) : Byte := (plenCode b.plen).setWidth 8

/-- `FRM.NEXT` in phase `LENGTH` (R70): the length byte goes through the CRC; an empty payload skips
the phase `PAYLOAD` (R75). -/
def nextLength (s : State) : Result :=
  let out := s.block.lengthByte
  emitByte out
    ((s.setCrc (crcByte s.block.crc out)).setSequencer
      (if s.block.plen = 0 then .crcHi else .payload) s.block.idx)

/-- `FRM.NEXT` in phase `PAYLOAD` (R70): the payload byte goes through the CRC. -/
def nextPayload (s : State) : Result :=
  let out := s.block.pbufRead s.block.idx
  let s' := s.setCrc (crcByte s.block.crc out)
  if s.block.idx.val + 1 = s.block.plen.val then emitByte out (s'.setSequencer .crcHi 0)
  else advanceIdx out s'

/-- `FRM.NEXT` in phase `CRC_HI` (R70, 20_memory.md R32). -/
def nextCrcHi (s : State) : Result :=
  emitByte (highByte (crcResult s.block.crc)) (s.setSequencer .crcLo s.block.idx)

/-- `FRM.NEXT` in phase `CRC_LO` (R70): the last byte of the frame, with `last` = 1. -/
def nextCrcLo (s : State) : Result :=
  respondOk (frameByteData (lowByte (crcResult s.block.crc)) true)
    (s.setSequencer .idle s.block.idx)

/-- `FRM.NEXT` (R70), its pseudocode letter by letter, in states that 10_state.md R26 excludes as well
(log 21). -/
def execFrmNext (s : State) : Result :=
  match s.block.phase with
  | .idle => raise .noFrame s
  | .preamble => nextPreamble s
  | .sync => nextSync s
  | .length => nextLength s
  | .payload => nextPayload s
  | .crcHi => nextCrcHi s
  | .crcLo => nextCrcLo s

/-- `FRM.STAT` (R71): permitted in every phase. -/
def execFrmStat (s : State) : Result := respondOk s.block.statusData s

end Sys2Proof.Machine
end

