-- ==== Sys2Proof/Machine/Operands.lean ====
section
/-! DEFINITION. The operand forms (`spec/30_encoding.md` R43): which values of a decoded operand are
legal at execution. An operand that is not legal makes its command raise `InputRange`
(60_exceptions.md R103); it is never clamped, rounded or wrapped. -/

namespace Sys2Proof.Machine

/-- The operand `s` of `TIM.BAUD`: 0 to 5 name a rate, 6 and 7 name none (44_timing.md R83). -/
def legalSelector (s : BitVec 3) : Option (Fin 6) :=
  if h : s.toNat < 6 then some ⟨s.toNat, h⟩ else none

/-- The operand `k` of `TIM.MULT` and `TIM.RDCHOICE`: 1 to 10 are legal (44_timing.md R84, R87). -/
def legalMultiplier (k : BitVec 4) : Option (Fin 11) :=
  if h : Config.multMin ≤ k.toNat ∧ k.toNat ≤ Config.multMax then
    some ⟨k.toNat, Nat.lt_succ_of_le h.2⟩
  else none

end Sys2Proof.Machine
end

