-- ==== Sys2Proof/Machine/Timing.lean ====
section
/-! DEFINITION. The TIM unit (`spec/44_timing.md`): the interval functions of its section 1 and the
meanings of TIM.BAUD, TIM.MULT, TIM.RDMIN, TIM.RDINT and TIM.RDCHOICE. It is a calculator: it
measures no time and enforces no interval (R89). -/

namespace Sys2Proof.Machine

/-! ## The functions (R80, R81) -/

/-- `ceil(p / q)` for `q > 0`: the least `n` with `n * q >= p` (00_scope.md section 5.1). -/
def ceilDiv (p q : Nat) : Nat := (p + (q - 1)) / q

/-- `max_frame_bits(P)`, the bits of the largest frame for payloads of up to `P` bytes (R80). -/
def maxFrameBits (P : Nat) : Nat :=
  (Config.preambleLen + Config.syncLen + Config.lengthLen + P + Config.checksumLen) * 8

/-- The guard bits, `ceil(guardRatio × maxFrameBits)` with the exact ratio 3/2 (R81). -/
def guardBits (P : Nat) : Nat := ceilDiv (Config.guardNum * maxFrameBits P) Config.guardDen

/-- `min_interval(baud)` in milliseconds, for payloads of up to `P` bytes: the multiplication by 1000
comes before the one rounding (R81). -/
def minIntervalFor (P baud : Nat) : Nat := ceilDiv ((maxFrameBits P + guardBits P) * 1000) baud

/-- `baud(BAUDSEL)` for a selected rate (10_state.md R16). -/
def baudOf (s : Fin 6) : Nat := Config.baudTable[s.val]

/-- `min_interval` for a selected rate with `MAX_PAYLOAD_BYTES` as decided: column 1× of the table of R82.
The commands below read the parameter of the machine instead (log 7). -/
def minInterval (s : Fin 6) : Nat := minIntervalFor Config.maxPayloadBytes (baudOf s)

/-- The selected rate, if one is selected. -/
def BaudSel.rate : BaudSel → Option (Fin 6)
  | .unselected => none
  | .selected s => some s

/-- `MININT`, defined only when a rate is selected (10_state.md R18). -/
def State.minint (s : State) : Option Nat :=
  s.block.baudSel.rate.map fun r => minIntervalFor s.maxPayloadBytes.val (baudOf r)

/-- `INTERVAL` = `MULT × MININT`, defined only when both are selected (10_state.md R19). -/
def State.interval (s : State) : Option Nat :=
  if s.block.mult = 0 then none else s.minint.map (s.block.mult.val * ·)

/-! ## The commands (R83 to R87) -/

/-- The response with an interval, or `NotConfigured` where a selector it needs is still "none"
(60_exceptions.md R106). -/
def respondInterval (v : Option Nat) (s : State) : Result :=
  match v with
  | some n => respondOk (BitVec.ofNat 32 n) s
  | none => raise .notConfigured s

/-- `TIM.BAUD s` (R83): `MULT` is not changed. -/
def execTimBaud (sel : BitVec 3) (s : State) : Result :=
  match legalSelector sel with
  | some r => respondOk 0 (s.setBaudSel (.selected r))
  | none => raise .inputRange s

/-- `TIM.MULT k` (R84): no rate need be selected first. -/
def execTimMult (k : BitVec 4) (s : State) : Result :=
  match legalMultiplier k with
  | some m => respondOk 0 (s.setMult m)
  | none => raise .inputRange s

/-- `TIM.RDMIN` (R85). -/
def execTimRdmin (s : State) : Result := respondInterval s.minint s

/-- `TIM.RDINT` (R86). -/
def execTimRdint (s : State) : Result := respondInterval s.interval s

/-- `TIM.RDCHOICE k` (R87): `InputRange` is checked before `NotConfigured` (60_exceptions.md R109). -/
def execTimRdchoice (k : BitVec 4) (s : State) : Result :=
  match legalMultiplier k with
  | some m => respondInterval (s.minint.map (m.val * ·)) s
  | none => raise .inputRange s

end Sys2Proof.Machine
end

