-- ==== Sys2Proof/Machine/Dispatch.lean ====
section
/-! DEFINITION. One arm per command, each a direct call of its meaning. -/

namespace Sys2Proof.Machine

def exec (i : Instr) (s : State) : Host.Outcome State Fault Refusal :=
  match i with
  -- the CRC unit (41_crc.md)
  | .crcInit => Sys2Proof.Machine.execCrcInit s
  | .crcByte b => Sys2Proof.Machine.execCrcByte b s
  | .crcRead => Sys2Proof.Machine.execCrcRead s
  -- the FRM unit (43_framer.md)
  | .frmClear => Sys2Proof.Machine.execFrmClear s
  | .frmPush b => Sys2Proof.Machine.execFrmPush b s
  | .frmStart => Sys2Proof.Machine.execFrmStart s
  | .frmNext => Sys2Proof.Machine.execFrmNext s
  | .frmStat => Sys2Proof.Machine.execFrmStat s
  -- the TIM unit (44_timing.md)
  | .timBaud sel => Sys2Proof.Machine.execTimBaud sel s
  | .timMult k => Sys2Proof.Machine.execTimMult k s
  | .timRdmin => Sys2Proof.Machine.execTimRdmin s
  | .timRdint => Sys2Proof.Machine.execTimRdint s
  | .timRdchoice k => Sys2Proof.Machine.execTimRdchoice k s

end Sys2Proof.Machine
end

