-- ==== Sys2Proof/Machine/Scheduler.lean ====
section
/-! DEFINITION. The Transmission Scheduler (`spec/45_scheduler.md`): the host agent's run of a plan.
It is not part of the block and touches none of its state. Its sleep is not modelled: no state
changes during it (R93, log 14). It has no cancellation (R97, log 20). -/

namespace Sys2Proof.Machine

/-- Plan validation (R91): out-of-range values are refused, never clamped. -/
def Plan.valid (p : Plan) : Bool :=
  decide (0 ≤ p.durationSeconds) && decide (p.durationSeconds ≤ Config.durationMax) &&
    decide (1 ≤ p.intervalMillis)

/-- The session at the start of a run (R92, R93): the budget is seeded with the duration. -/
def openSession (p : Plan) : Session where
  plan := p
  remainingBudgetMillis := p.durationSeconds * 1000
  packetsSent := 0

/-- What one evaluation of the loop leads to. -/
inductive LoopResult where
  | goesOn (σ : Session)
  | ends (r : RunResult)
  deriving DecidableEq, Repr

/-- One evaluation of the loop of R93: the condition first; then the decrement, before the send
(R95); then the send, whose failure stops the loop with the count of the sends that succeeded
(R96). -/
def sessionLoop (σ : Session) (sendOk : Bool) : LoopResult :=
  if 0 < σ.remainingBudgetMillis then
    if sendOk then
      .goesOn { σ with
        remainingBudgetMillis := σ.remainingBudgetMillis - σ.plan.intervalMillis
        packetsSent := σ.packetsSent + 1 }
    else .ends (.transportError σ.packetsSent)
  else .ends (.completed σ.packetsSent)

/-- `run(plan, sink)` (R90, R93): the loop against the sink's answers, one for each evaluation; the
session as it stands where the answers end first. -/
def runSession : Session → List Bool → LoopResult
  | σ, [] => .goesOn σ
  | σ, sendOk :: answers =>
    match sessionLoop σ sendOk with
    | .goesOn σ' => runSession σ' answers
    | .ends r => .ends r

/-- The packet count of R94, `ceil(durationSeconds × 1000 / intervalMillis)`. -/
def packetCount (p : Plan) : Nat :=
  ((p.durationSeconds * 1000 + (p.intervalMillis - 1)) / p.intervalMillis).toNat

/-- A run ends: the session is destroyed (R92) and its result is known to the caller. -/
def HostSide.endRun (h : HostSide) (r : RunResult) : HostSide :=
  { h with session := none, runs := h.runs ++ [r] }

/-- The host begins a run: an invalid plan is rejected before it is constructed (R91,
log 10). One actor runs one plan at a time (R90, log 9). -/
def beginRun (p : Plan) (s : State) : Result :=
  match s.host.session with
  | some _ => .refused .runInProgress
  | none =>
    if p.valid then .next { s with host := { s.host with session := some (openSession p) } }
    else .next { s with host := s.host.endRun .rejected }

/-- The host evaluates its loop once; a send that succeeds hands the whole frame to the sink
(R96): the plan's, read from the block once before the run, which R98 leaves to the host (log 23). -/
def loopOnce (sendOk : Bool) (s : State) : Result :=
  match s.host.session with
  | none => .refused .noRunInProgress
  | some σ =>
    match sessionLoop σ sendOk with
    | .goesOn σ' =>
      .next { s with host :=
        { s.host with session := some σ', sent := s.host.sent ++ [σ.plan.frame] } }
    | .ends r => .next { s with host := s.host.endRun r }

end Sys2Proof.Machine
end

