-- ==== Sys2Proof/Machine/Port.lean ====
section
/-! DEFINITION. What each input does to the machine: a command word on the port
(`spec/30_encoding.md` R41, R45) and the reset input (`spec/70_reset_and_hazards.md` R115). -/

namespace Sys2Proof.Machine

/-- A command word: decoding comes first (R45); a word that is no command answers `IllegalCommand`
and changes nothing (R44, 60_exceptions.md R101). -/
def runCommand (w : CommandWord) (s : State) : Result :=
  match decode w with
  | .ok i => exec i s
  | .error _ => raise .illegalCommand s

/-- The input `rst` (R115): the block goes to its reset state from any state; what the host holds is
its own (log 4). -/
def resetBlock (s : State) : Result := .next { s with block := Block.reset }

/-- What one input does, once it has been taken off the list. -/
def runInput (x : Input) (s : State) : Result :=
  match x with
  | .command w => runCommand w s
  | .reset => resetBlock s
  | .beginRun d i f => beginRun ⟨d, i, f⟩ s
  | .loop sendOk => loopOnce sendOk s
  | .secondHost _ => .refused .secondHost
  | .earlyCommand _ => .refused .commandBeforeResponse
  | .resetMidCommand _ => .refused .resetMidCommand

/-- The inputs are taken in the order they stand in (20_memory.md R39); with nothing pending the block
simply holds its state (60_exceptions.md R114, log 11). -/
def stepInputs (s : State) : Result :=
  match s.inputs with
  | [] => .next s
  | x :: rest => runInput x { s with inputs := rest }

/-- The host puts a command word in front of whatever else it means to do next. -/
def placeCommand (w : CommandWord) (s : State) : State :=
  { s with inputs := .command w :: s.inputs }

end Sys2Proof.Machine
end

