-- ==== Sys2Proof/Machine/Step.lean ====
section
/-! DEFINITION. One step of the machine: the next input, whole (`spec/00_scope.md` R4). -/

namespace Sys2Proof.Machine

/-- One step: the first pending input's whole effect, as one indivisible step (R4, 20_memory.md R39). -/
def step (s : State) : Host.Outcome State Fault Refusal := stepInputs s

/-- `s` with the command word `w` as the next thing the host does. There is no program counter and no
code memory (10_state.md R22, 20_memory.md R29): the step takes its next command from the port, so
the word goes there (log 2). A command is 16 bits whatever `nbits` says. -/
def State.withFetchWord (s : State) (nbits w : Nat) : State :=
  placeCommand (BitVec.ofNat 16 (w % 2 ^ nbits)) s

end Sys2Proof.Machine
end

