-- ==== Sys2Proof/Machine/Assembler.lean ====
section
/-! DEFINITION. The assembly notation of `spec/30_encoding.md` R47, used by the spec's own programs
and no property of the hardware (92_eei_decisions.md D28; log 16 for what R47 leaves open). -/

namespace Sys2Proof.Machine

/-- The mnemonics in upper case with the unit prefix and a dot. -/
def mnemonicText : Mnemonic → String
  | .crcInit => "CRC.INIT"
  | .crcByte => "CRC.BYTE"
  | .crcRead => "CRC.READ"
  | .frmClear => "FRM.CLEAR"
  | .frmPush => "FRM.PUSH"
  | .frmStart => "FRM.START"
  | .frmNext => "FRM.NEXT"
  | .frmStat => "FRM.STAT"
  | .timBaud => "TIM.BAUD"
  | .timMult => "TIM.MULT"
  | .timRdmin => "TIM.RDMIN"
  | .timRdint => "TIM.RDINT"
  | .timRdchoice => "TIM.RDCHOICE"

/-- The text before the first semicolon. -/
def beforeComment (cs : List Char) : List Char := cs.takeWhile (· != ';')

/-- The words of a line, separated by blanks and tabs. -/
def lineWords : List Char → List (List Char)
  | [] => []
  | c :: rest =>
    if c = ' ' ∨ c = '\t' then [] :: lineWords rest
    else match lineWords rest with
      | [] => [[c]]
      | w :: ws => (c :: w) :: ws

/-- The digits of a numeral, each at the place of its value. -/
def digitCharacters : List Char := "0123456789ABCDEF".toList

/-- The value of a digit in a base of at most 16: its place among the digits of the base. -/
def digitValue (base : Nat) (digit : Char) : Option Nat :=
  (digitCharacters.take base).idxOf? digit.toUpper

/-- The value of a nonempty sequence of digits. -/
def digitsValue (base : Nat) : List Char → Option Nat
  | [] => none
  | cs => cs.foldl (fun acc c => acc.bind fun n => (digitValue base c).map (n * base + ·)) (some 0)

/-- A decimal numeral, or a hexadecimal numeral with `0x`. -/
def numeral : List Char → Option Nat
  | '0' :: 'x' :: ds => digitsValue 16 ds
  | ds => digitsValue 10 ds

/-- The mnemonic a word spells. -/
def findMnemonic (w : List Char) : Option Mnemonic :=
  Mnemonic.all.find? (fun m => (mnemonicText m).toList == w)

/-- A line of assembly (R47): `MNEMONIC` or `MNEMONIC operand`, and perhaps a comment. -/
def asmLine (text : String) : Option AsmLine :=
  match (lineWords (beforeComment text.toList)).filter (· ≠ []) with
  | [m] => (findMnemonic m).map (⟨·, none⟩)
  | [m, n] => (findMnemonic m).bind fun m => (numeral n).map fun n => ⟨m, some n⟩
  | _ => none

/-- The encoding of a line (R47); none for an assembly error. -/
def assemble (text : String) : Option CommandWord :=
  (asmLine text).bind fun l => l.toInstr.map encode

/-- The bytes a quoted string operand stands for: its ASCII bytes in order (R48). A character outside
ASCII, for which R48 gives no byte, stands for its code modulo 256: the model's choice (log 16). -/
def asciiBytes (text : String) : List Byte := text.toList.map (fun c => BitVec.ofNat 8 c.toNat)

end Sys2Proof.Machine
end

