-- ==== Sys2Proof/Machine/HostAgent.lean ====
section
/-! DEFINITION. The host agent: the pseudo-commands it uses (`spec/30_encoding.md` R48), the catalog
selection (`spec/42_catalog.md`), and how it gets a plan's frame and interval from the block
(`spec/45_scheduler.md` R98). None of it is part of the block. -/

namespace Sys2Proof.Machine

/-- A sequence of commands as inputs of the port, in order. -/
def commandInputs (is : List Instr) : List Input := is.map (fun i => .command (encode i))

/-! ## Pseudo-commands (30_encoding.md R48) -/

/-- `CRC16 b0, ..., b(n-1)`. -/
def crc16Script (bs : List Byte) : List Instr := .crcInit :: bs.map .crcByte ++ [.crcRead]

/-- `PAYLOAD b0, ..., b(n-1)`; `n` may exceed 255. -/
def payloadScript (bs : List Byte) : List Instr := .frmClear :: bs.map .frmPush

/-- The number of bytes of a frame whose payload has `n` bytes (43_framer.md R66). -/
def frameLength (n : Nat) : Nat := 9 + n

/-- `EMIT`: `FRM.START`, then, only if it answered `OK`, `FRM.NEXT` until a response has `last` = 1,
that is `9 + PLEN` times. The host knows the answer and `PLEN`; they are arguments here
(log 19). -/
def emitScript (startAnswer : Status) (plen : Nat) : List Instr :=
  .frmStart :: (if startAnswer = .ok then List.replicate (frameLength plen) .frmNext else [])

/-- `FRAME b0, ..., b(n-1)`: `PAYLOAD`, then `EMIT`, which reads nothing where `FRM.START` was refused.
Where it answered `OK` the block was idle, so `PLEN` is the number of bytes. -/
def frameScript (answer : Status) (bs : List Byte) : List Instr :=
  payloadScript bs ++ emitScript answer bs.length

/-- The answer of `FRM.START` after `PAYLOAD` of `n` bytes to a block (43_framer.md R67 to R69). -/
def startAnswer (b : Block) (n : Nat) : Status :=
  if b.phase ≠ .idle then .error .busy
  else if n ≤ Config.maxPayloadLen then .ok
  else .error .payloadTooLarge

/-- `INTERVAL s, k`. -/
def intervalScript (sel : BitVec 3) (k : BitVec 4) : List Instr :=
  [.timBaud sel, .timMult k, .timRdint]

/-- The expansion of a pseudo-command (R48). For `EMIT` and `FRAME` the host must know what
`FRM.START` answered, and for `EMIT` how many bytes it has pushed (log 19). -/
def expandPseudo (answer : Status) (plen : Nat) : Pseudo → List Instr
  | .crc16 bs => crc16Script bs
  | .payload bs => payloadScript bs
  | .emit => emitScript answer plen
  | .frame bs => frameScript answer bs
  | .interval sel k => intervalScript sel k

/-! ## What the host reads out of the responses (45_scheduler.md R98) -/

/-- The bytes of the last `n` responses. -/
def collectBytes (n : Nat) (rs : List Response) : List Byte :=
  (rs.drop (rs.length - n)).map Response.frameByte

/-- The commands by which the host gets a plan's interval and frame. The order between the two is free;
this host takes the interval first, and reads the frame once for the whole run (log 23). -/
def preparationScript (answer : Status) (sel : BitVec 3) (k : BitVec 4) (p : List Byte) :
    List Instr :=
  intervalScript sel k ++ frameScript answer p

/-- The interval read by `preparationScript`: its third response, the one to `TIM.RDINT`. -/
def intervalRead (rs : List Response) : Option Int := rs[2]?.map fun r => r.data.toNat

/-- The run the host asks for, from the responses to `preparationScript`. What a host does on an error
is its own affair (60_exceptions.md R108); this one follows the source's advice and asks for no run
unless every response is `OK` (log 24). -/
def planFromResponses (d : Int) (n : Nat) (rs : List Response) : Option Input :=
  if rs.all (fun r => r.status == .ok) then
    (intervalRead rs).map fun i => .beginRun d i (collectBytes (frameLength n) rs)
  else none

/-! ## The catalog (42_catalog.md) -/

/-- What the host can select (R60): one of the six catalog commands, or cancel. -/
inductive Selection where
  | catalogCommand (c : Config.CatalogCommand)
  | cancel
  deriving DecidableEq, Repr

/-- The host's own numbering of the selections (R64); it never reaches the block. -/
def selectionNumber : Selection → Nat
  | .catalogCommand .readStatusControlWord => 0
  | .catalogCommand .enableBeacons => 1
  | .catalogCommand .disableBeacons => 2
  | .catalogCommand .setBeaconPeriod => 3
  | .catalogCommand .readUptime => 4
  | .catalogCommand .readReceivedPacketCount => 5
  | .cancel => 6

/-- The commands the host issues to the block for a selection (R64, R98); none at all for cancel
(R63). -/
def selectionScript (answer : Status) (sel : BitVec 3) (k : BitVec 4) : Selection → List Instr
  | .catalogCommand c => preparationScript answer sel k (Config.catalog c)
  | .cancel => []

/-- The inputs of the run after the responses `rs` to `selectionScript`: the plan, then one loop
evaluation for each answer of the sink; none at all where there is no plan (log 24) or for cancel
(R63). The frame is not read from the block again between the sends (log 23). -/
def selectionRun (d : Int) (rs : List Response) (answers : List Bool) : Selection → List Input
  | .catalogCommand c =>
    match planFromResponses d (Config.catalog c).length rs with
    | some run => run :: answers.map .loop
    | none => []
  | .cancel => []

/-! ## Information only (70_reset_and_hazards.md R125) -/

/-- The air time of a frame of `9 + n` bytes in milliseconds, one bit per symbol and no line coding
(G4). No rule of the machine uses it. -/
def airTimeMillis (n baud : Nat) : ℚ := (frameLength n * 8 * 1000 : ℚ) / baud

/-- The bits of a frame byte in the order a modulator sends them (20_memory.md R36), which is open
(log 13). No rule of the machine uses it. -/
def onAirBits (b : Byte) : List Bool :=
  (List.finRange 8).map (fun i => b.getLsbD (Config.onAirBitOrder i).val)

end Sys2Proof.Machine
end

