-- ==== Sys2Proof/Safety.lean ====
section
/-! DEFINITION. What a good state is: the invariants of `spec/10_state.md` R26 and the named premises
of `spec/70_reset_and_hazards.md` R128, in the terms claims use. -/

namespace Sys2Proof.Machine

/-- `Reachable(s)` (R128): the invariants (a) to (j) of 10_state.md R26. -/
structure Reachable (b : Block) : Prop where
  /-- (a) `0 <= PLEN <= 256`. -/
  plenLegal : (plenCode b.plen).toNat ≤ 256
  /-- (b) `PHASE` is in 0 to 6. -/
  phaseLegal : (phaseCode b.phase).toNat ≤ 6
  /-- (c) If `PHASE != IDLE` then `PLEN <= 255`. -/
  busyPlen : b.phase ≠ .idle → b.plen.val ≤ 255
  /-- (d) If `PHASE = PREAMBLE` then `0 <= IDX <= 4`. -/
  preambleIdx : b.phase = .preamble → b.idx.val ≤ 4
  /-- (e) If `PHASE = PAYLOAD` then `0 <= IDX < PLEN`. -/
  payloadIdx : b.phase = .payload → b.idx.val < b.plen.val
  /-- (f) In every other phase `IDX = 0`. -/
  otherIdx : b.phase ≠ .preamble → b.phase ≠ .payload → b.idx.val = 0
  /-- (g) `BAUDSEL` is in 0 to 5 or 7. -/
  baudSelLegal : (baudSelCode b.baudSel).toNat ≤ 5 ∨ (baudSelCode b.baudSel).toNat = 7
  /-- (h) `MULT` is in 0 to 10. -/
  multLegal : (multCode b.mult).toNat ≤ 10
  /-- (i) In `CRC_HI` and `CRC_LO`, `CRC = crc16(byte(PLEN) ‖ PBUF[0..PLEN-1])`. -/
  checksumDone : b.phase = .crcHi ∨ b.phase = .crcLo →
    b.crc = crc16 (byteOf b.plen.val :: b.pbufPrefix b.plen.val)
  /-- (j) In `PAYLOAD`, `CRC = crc16(byte(PLEN) ‖ PBUF[0..IDX-1])`. -/
  checksumRunning : b.phase = .payload →
    b.crc = crc16 (byteOf b.plen.val :: b.pbufPrefix b.idx.val)
  /-- (j) In `LENGTH`, `SYNC` and `PREAMBLE`, `CRC = 0xFFFF`. -/
  checksumInit : b.phase = .preamble ∨ b.phase = .sync ∨ b.phase = .length → b.crc = 0xFFFF

/-- `Idle(s)` (R128). -/
def Idle (b : Block) : Prop := Reachable b ∧ b.phase = .idle

/-- `Fresh(s)` (R128): the reset state of 10_state.md R27, whose `PBUF` is unspecified. -/
def Fresh (b : Block) : Prop :=
  b.crc = 0xFFFF ∧ b.plen.val = 0 ∧ b.phase = .idle ∧ b.idx.val = 0 ∧
    (baudSelCode b.baudSel).toNat = 7 ∧ b.mult.val = 0

/-- `Configured(s)` (R128): `BAUDSEL <= 5` and `1 <= MULT <= 10`. -/
def Configured (b : Block) : Prop :=
  (baudSelCode b.baudSel).toNat ≤ 5 ∧ 1 ≤ b.mult.val ∧ b.mult.val ≤ 10

/-- The bounds of a session under way (45_scheduler.md R90 to R92): its plan is valid, the budget is
what the iterations so far have left of the seed, and it has not gone below `1 - intervalMillis`. -/
structure SessionInv (σ : Session) : Prop where
  planValid : σ.plan.valid = true
  budget : σ.remainingBudgetMillis =
    σ.plan.durationSeconds * 1000 - σ.packetsSent * σ.plan.intervalMillis
  budgetLow : 1 - σ.plan.intervalMillis ≤ σ.remainingBudgetMillis
  budgetHigh : σ.remainingBudgetMillis ≤ 300000

/-- The machine's invariant: R26 of the block, the canonical form of `PBUF`'s cells, and the session's
bounds. -/
structure Inv (s : State) : Prop where
  reachable : Reachable s.block
  memory : Memory.wf s.block.pbuf
  session : ∀ σ, s.host.session = some σ → SessionInv σ

/-- A run that stops in this state is clean (70_reset_and_hazards.md R126): no frame is left
unfinished. -/
def CleanEnd (s : State) : Prop := s.block.phase = .idle

/-- `s` with exactly these commands pending on its port: the start of a run of a finite sequence of
command words (70_reset_and_hazards.md R126). -/
def State.issue (s : State) (is : List Instr) : State := { s with inputs := commandInputs is }

/-- The run of a finite sequence of commands from a state: one step for each (R126). -/
def State.run (s : State) (is : List Instr) : Host.Outcome State Fault Refusal :=
  Sys2Proof.core.run is.length (s.issue is)

/-- The commands that may stand between the commands of a frame without changing its bytes:
`CRC.READ`, `FRM.STAT` and `TIM.*` (43_framer.md R72). -/
def bystander : Instr → Bool
  | .crcRead | .frmStat | .timBaud _ | .timMult _ | .timRdmin | .timRdint | .timRdchoice _ => true
  | .crcInit | .crcByte _ | .frmClear | .frmPush _ | .frmStart | .frmNext => false

/-- The five commands that would disturb a frame in progress (60_exceptions.md R104). -/
def disturbsFrame : Instr → Bool
  | .crcInit | .crcByte _ | .frmClear | .frmPush _ | .frmStart => true
  | .crcRead | .frmNext | .frmStat | .timBaud _ | .timMult _ | .timRdmin | .timRdint
  | .timRdchoice _ => false

/-- A command has an operand outside its legal set (60_exceptions.md R103). -/
def operandOutOfRange : Instr → Prop
  | .timBaud s => 6 ≤ s.toNat
  | .timMult k | .timRdchoice k => k.toNat = 0 ∨ 11 ≤ k.toNat
  | .crcInit | .crcByte _ | .crcRead | .frmClear | .frmPush _ | .frmStart | .frmNext | .frmStat
  | .timRdmin | .timRdint => False

/-- A command reads a value for which a selector is still "none" (60_exceptions.md R106). -/
def needsSelector (b : Block) : Instr → Prop
  | .timRdmin | .timRdchoice _ => b.baudSel = .unselected
  | .timRdint => b.baudSel = .unselected ∨ b.mult.val = 0
  | .crcInit | .crcByte _ | .crcRead | .frmClear | .frmPush _ | .frmStart | .frmNext | .frmStat
  | .timBaud _ | .timMult _ => False

/-- Two blocks agree on everything a command can read: all registers, and the cells of `PBUF` below
`PLEN` (10_state.md R12, R27; 93_implementation_defined.md I7). -/
def Block.agree (a b : Block) : Prop :=
  a.crc = b.crc ∧ a.plen = b.plen ∧ a.phase = b.phase ∧ a.idx = b.idx ∧ a.baudSel = b.baudSel ∧
    a.mult = b.mult ∧ ∀ i : Fin 255, i.val < a.plen.val → a.pbufRead i = b.pbufRead i

end Sys2Proof.Machine
end

