-- ==== Sys2Proof/Certificates/Slice0/Obligations.lean ====
section
/-! DEFINITION. The statements for the provers, each from the numbered rules of `spec/` named in its
docstring. -/

open Sys2Proof Sys2Proof.Machine

/-! ## Encoding (30_encoding.md) -/

/-- R42, in its own words and numbers: a few words and what they stand for. -/
def Obligations.SpecWordsDecode : Prop :=
  decode 0x1000 = .ok .crcInit ∧ decode 0x20FF = .ok (.crcByte 0xFF) ∧
  decode 0x5041 = .ok (.frmPush 0x41) ∧ decode 0x7000 = .ok .frmNext ∧
  decode 0x9004 = .ok (.timBaud 4) ∧ decode 0xD007 = .ok (.timRdchoice 7) ∧
  decode 0x0000 = .error (.reservedOpcode 0x0) ∧ decode 0xFFFF = .error (.reservedOpcode 0xF) ∧
  decode 0x2100 = .error (.unusedBitsSet 0x2 0x100)

/-- R42: a word is a command exactly when `cmd and mask = match` for the command's row, and its
operand is then the low bits of `arg`. -/
def Obligations.WordSelectsCommandByMaskAndMatch : Prop :=
  ∀ w : CommandWord,
    (decode w = .ok .crcInit ↔ w &&& 0xFFFF = 0x1000) ∧
    (∀ b : Byte, decode w = .ok (.crcByte b) ↔ w &&& 0xFF00 = 0x2000 ∧ b = w.extractLsb' 0 8) ∧
    (decode w = .ok .crcRead ↔ w &&& 0xFFFF = 0x3000) ∧
    (decode w = .ok .frmClear ↔ w &&& 0xFFFF = 0x4000) ∧
    (∀ b : Byte, decode w = .ok (.frmPush b) ↔ w &&& 0xFF00 = 0x5000 ∧ b = w.extractLsb' 0 8) ∧
    (decode w = .ok .frmStart ↔ w &&& 0xFFFF = 0x6000) ∧
    (decode w = .ok .frmNext ↔ w &&& 0xFFFF = 0x7000) ∧
    (decode w = .ok .frmStat ↔ w &&& 0xFFFF = 0x8000) ∧
    (∀ s : BitVec 3, decode w = .ok (.timBaud s) ↔ w &&& 0xFFF8 = 0x9000 ∧ s = w.extractLsb' 0 3) ∧
    (∀ k : BitVec 4, decode w = .ok (.timMult k) ↔ w &&& 0xFFF0 = 0xA000 ∧ k = w.extractLsb' 0 4) ∧
    (decode w = .ok .timRdmin ↔ w &&& 0xFFFF = 0xB000) ∧
    (decode w = .ok .timRdint ↔ w &&& 0xFFFF = 0xC000) ∧
    (∀ k : BitVec 4,
      decode w = .ok (.timRdchoice k) ↔ w &&& 0xFFF0 = 0xD000 ∧ k = w.extractLsb' 0 4)

/-- Decode and encode agree on all commands, with every operand at every value, and in the other
direction each legal word is the encoding of what it decodes to (R42, R43, R47). -/
def Obligations.DecodeAndEncodeAgree : Prop :=
  (∀ i : Instr, decode (encode i) = .ok i) ∧
  ∀ (w : CommandWord) (i : Instr), decode w = .ok i → encode i = w

/-- R44, the count: 560 decodable words, the remaining 64976 illegal. -/
def Obligations.LegalWordsNumberFiveHundredSixty : Prop :=
  Nat.card { w : CommandWord // ∃ i, decode w = .ok i } = 560 ∧
  Nat.card { w : CommandWord // ¬ ∃ i, decode w = .ok i } = 64976

/-- R47: the encoding of an assembly line is the opcode and the operand, zero-extended to 12 bits, and an
operand too large for its field has none. That a missing or a superfluous operand has none either is
the model's choice (log 16). -/
def Obligations.AssemblyLineEncodesOpcodeAndOperand : Prop :=
  ∀ l : AsmLine,
    (l.wellFormed = false → l.toInstr = none) ∧
    (l.wellFormed = true → ∃ i, l.toInstr = some i ∧ i.mnemonic = l.mnemonic ∧
      (argField (encode i)).toNat = l.operand.getD 0 ∧
      opField (encode i) = opField (opcodeRow l.mnemonic).matchBits)

/-! ## The step (00_scope.md R4, 30_encoding.md R41, R45) -/

/-- R45: a word that decodes runs its command, with the word taken off the port and nothing else done
around it; the same for a word placed by `withFetchWord`. -/
def Obligations.StepRunsDecodedCommand : Prop :=
  (∀ (s : State) (w : CommandWord) (i : Instr) (rest : List Input),
    s.inputs = .command w :: rest → decode w = .ok i → step s = exec i { s with inputs := rest }) ∧
  ∀ (s : State) (w : CommandWord) (i : Instr),
    decode w = .ok i → step (s.withFetchWord 16 w.toNat) = exec i s

/-- R101: a word that matches no row of the opcode map answers `IllegalCommand` (code 1), in every state,
and nothing changes; its opcode is reserved, or a bit its opcode's row does not use is 1. -/
def Obligations.IllegalWordAnswersIllegalCommand : Prop :=
  statusCode (.error .illegalCommand) = 1 ∧
  ∀ (s : State) (w : CommandWord) (rest : List Input),
    s.inputs = .command w :: rest → (∀ r ∈ opcodeTable, r.selects w = false) →
    step s = .next { s with
      inputs := rest, responses := s.responses ++ [⟨.error .illegalCommand, 0⟩] } ∧
    (opField w = 0x0 ∨ opField w = 0xE ∨ opField w = 0xF ∨
      ∃ r ∈ opcodeTable, opField r.matchBits = opField w ∧ argField r.mask &&& argField w ≠ 0)

/-- R41: every command word, legal or not, in every reachable state, produces exactly one response; an
error response has data 0 and the command wrote no state; the data is 0 unless the command's rule
gives it a value. -/
def Obligations.EveryWordProducesOneResponse : Prop :=
  ∀ (s : State) (w : CommandWord) (rest : List Input),
    Reachable s.block → s.inputs = .command w :: rest →
    ∃ (t : State) (r : Response), step s = .next t ∧ t.inputs = rest ∧
      t.responses = s.responses ++ [r] ∧ t.host = s.host ∧
      (r.status ≠ .ok → r.data = 0 ∧ t.block = s.block) ∧
      (r.data ≠ 0 → decode w = .ok .crcRead ∨ decode w = .ok .frmNext ∨ decode w = .ok .frmStat ∨
        decode w = .ok .timRdmin ∨ decode w = .ok .timRdint ∨
        ∃ k, decode w = .ok (.timRdchoice k))

/-- R109: a command reports at most one error, the first that applies in the order IllegalCommand,
Busy, InputRange or PayloadTooLarge, NotConfigured or NoFrame; and `OK` if none applies. -/
def Obligations.ErrorPriority : Prop :=
  ∀ (s : State) (w : CommandWord) (rest : List Input),
    Reachable s.block → s.inputs = .command w :: rest →
    ∃ (t : State) (r : Response), step s = .next t ∧ t.responses = s.responses ++ [r] ∧
      ((∀ i, decode w ≠ .ok i) → r.status = .error .illegalCommand) ∧
      ∀ i, decode w = .ok i →
        (disturbsFrame i = true ∧ s.block.phase ≠ .idle → r.status = .error .busy) ∧
        (¬(disturbsFrame i = true ∧ s.block.phase ≠ .idle) →
          (operandOutOfRange i → r.status = .error .inputRange) ∧
          (i = .frmStart ∧ s.block.plen.val = 256 → r.status = .error .payloadTooLarge) ∧
          (¬ operandOutOfRange i → ¬(i = .frmStart ∧ s.block.plen.val = 256) →
            (needsSelector s.block i → r.status = .error .notConfigured) ∧
            (i = .frmNext ∧ s.block.phase = .idle → r.status = .error .noFrame) ∧
            (¬ needsSelector s.block i → ¬(i = .frmNext ∧ s.block.phase = .idle) →
              r.status = .ok)))

/-- R114: with no command pending the machine holds its state; R127: a second host, a command before
the previous response and a reset inside a step are refused. -/
def Obligations.IdlePortHoldsAndMeaninglessInputsAreRefused : Prop :=
  ∀ s : State,
    (s.inputs = [] → step s = .next s) ∧
    ∀ (w : CommandWord) (rest : List Input),
      (s.inputs = .secondHost w :: rest → step s = .refused .secondHost) ∧
      (s.inputs = .earlyCommand w :: rest → step s = .refused .commandBeforeResponse) ∧
      (s.inputs = .resetMidCommand w :: rest → step s = .refused .resetMidCommand)

/-- R23: the four status bits, each a function of the state or of one response. -/
def Obligations.StatusBitsAreFunctionsOfState : Prop :=
  (∀ b : Block, (b.busy = true ↔ b.phase ≠ .idle) ∧ (b.ovf = true ↔ b.plen.val = 256) ∧
    (b.tvalid = true ↔ (baudSelCode b.baudSel).toNat ≤ 5)) ∧
  ∀ (s t : State) (r : Response), exec .frmNext s = .next t → t.responses = s.responses ++ [r] →
    (r.last = true ↔ s.block.phase = .crcLo)

/-- R100 and 10_state.md R10, R14, R16, R17: the codes of the statuses and of the register values. -/
def Obligations.CodesAreAsTabled : Prop :=
  [Status.ok, .error .illegalCommand, .error .payloadTooLarge, .error .inputRange, .error .busy,
    .error .noFrame, .error .notConfigured].map statusCode = [0, 1, 2, 3, 4, 5, 6] ∧
  [Phase.idle, .preamble, .sync, .length, .payload, .crcHi, .crcLo].map phaseCode =
    [0, 1, 2, 3, 4, 5, 6] ∧
  baudSelCode .unselected = 7 ∧ (∀ r : Fin 6, (baudSelCode (.selected r)).toNat = r.val) ∧
  (∀ m : Fin 11, (multCode m).toNat = m.val) ∧ (∀ n : Fin 257, (plenCode n).toNat = n.val) ∧
  ∀ i : Fin 255, (idxCode i).toNat = i.val

/-! ## Reset (10_state.md R27, 70_reset_and_hazards.md R115, R116) -/

/-- R115: reset takes the block from any state to the reset state of R27. -/
def Obligations.ResetFromAnyState : Prop :=
  ∀ (s : State) (rest : List Input), s.inputs = .reset :: rest →
    ∃ t, step s = .next t ∧ t.block.crc = 0xFFFF ∧ t.block.plen.val = 0 ∧ t.block.phase = .idle ∧
      t.block.idx.val = 0 ∧ (baudSelCode t.block.baudSel).toNat = 7 ∧
      (multCode t.block.mult).toNat = 0 ∧ t.inputs = rest ∧ t.responses = s.responses ∧
      t.host = s.host

/-- R116: reset leads from any state to the reset state, and the first responses after it are as listed,
whatever `PBUF` holds then. -/
def Obligations.FirstResponsesAfterReset : Prop :=
  (∀ (s : State) (rest : List Input), s.inputs = .reset :: rest →
    ∃ t, step s = .next t ∧ Fresh t.block) ∧
  ∀ s : State, Fresh s.block →
    exec .crcRead s = .next { s with responses := s.responses ++ [⟨.ok, 0xFFFF⟩] } ∧
    exec .frmStat s = .next { s with responses := s.responses ++ [⟨.ok, 0⟩] } ∧
    exec .frmNext s = .next { s with responses := s.responses ++ [⟨.error .noFrame, 0⟩] } ∧
    (∃ t, exec .frmStart s = .next t ∧ t.responses = s.responses ++ [⟨.ok, 0⟩] ∧
      t.block.phase = .preamble) ∧
    exec .timRdmin s = .next { s with responses := s.responses ++ [⟨.error .notConfigured, 0⟩] } ∧
    exec .timRdint s = .next { s with responses := s.responses ++ [⟨.error .notConfigured, 0⟩] }

/-- R115: nothing but reset returns `BAUDSEL` or `MULT` to "none". -/
def Obligations.OnlyResetUnselects : Prop :=
  ∀ s t : State, (∀ rest, s.inputs ≠ .reset :: rest) → step s = .next t →
    (s.block.baudSel ≠ .unselected → t.block.baudSel ≠ .unselected) ∧
    (s.block.mult ≠ 0 → t.block.mult ≠ 0)

/-! ## The CRC unit (41_crc.md) -/

/-- The one-bit step, as R50 has it. R50 marks it as general knowledge and in no source (log 15). -/
def Obligations.CrcBitStep : Prop :=
  ∀ (c : CrcWord) (d : Bool),
    crcBit c d = if (c.getLsbD 15 ^^ d) = true then (c <<< 1) ^^^ 0x1021 else c <<< 1

/-- R51, both forms: bit 7 first and bit 0 last; and the equivalent form, which XORs the byte into the
top of the register and then makes eight shift steps with input bit 0. -/
def Obligations.CrcByteHasTwoEqualForms : Prop :=
  ∀ (c : CrcWord) (b : Byte),
    crcByte c b =
      crcBit (crcBit (crcBit (crcBit (crcBit (crcBit (crcBit (crcBit c (b.getLsbD 7)) (b.getLsbD 6))
        (b.getLsbD 5)) (b.getLsbD 4)) (b.getLsbD 3)) (b.getLsbD 2)) (b.getLsbD 1)) (b.getLsbD 0) ∧
    crcByte c b = (List.replicate 8 false).foldl crcBit (c ^^^ (b.setWidth 16 <<< 8))

/-- R52: `crc16` starts from 0xFFFF, takes the bytes in order and XORs 0x0000; the check value. -/
def Obligations.Crc16StartsFromInit : Prop :=
  crc16 [] = 0xFFFF ∧
  (∀ (bs : List Byte) (b : Byte), crc16 (bs ++ [b]) = crcByte (crc16 bs) b ^^^ 0x0000) ∧
  crc16 [0x31, 0x32, 0x33, 0x34, 0x35, 0x36, 0x37, 0x38, 0x39] = 0x29B1

/-- R59: the residue of a sequence followed by its own CRC is zero, and so is that of a frame from its
length byte on. -/
def Obligations.CrcResidueIsZero : Prop :=
  (∀ bs : List Byte, crc16 (bs ++ bigEndianU16 (crc16 bs)) = 0x0000) ∧
  ∀ p : List Byte, p.length ≤ 255 → crc16 ((frame p).drop 6) = 0x0000

/-- R53: `CRC.INIT`. -/
def Obligations.CrcInitStartsNewComputation : Prop :=
  encode .crcInit = 0x1000 ∧
  ∀ s : State,
    (s.block.phase = .idle → exec .crcInit s = .next { s with
      block := { s.block with crc := 0xFFFF }, responses := s.responses ++ [⟨.ok, 0⟩] }) ∧
    (s.block.phase ≠ .idle → exec .crcInit s = .next { s with
      responses := s.responses ++ [⟨.error .busy, 0⟩] })

/-- R54: `CRC.BYTE b`. -/
def Obligations.CrcByteFeedsOneByte : Prop :=
  (∀ b : Byte, encode (.crcByte b) = 0x2000 ||| b.setWidth 16) ∧
  ∀ (b : Byte) (s : State),
    (s.block.phase = .idle → exec (.crcByte b) s = .next { s with
      block := { s.block with crc := crcByte s.block.crc b },
      responses := s.responses ++ [⟨.ok, 0⟩] }) ∧
    (s.block.phase ≠ .idle → exec (.crcByte b) s = .next { s with
      responses := s.responses ++ [⟨.error .busy, 0⟩] })

/-- R55: `CRC.READ`, in every phase. -/
def Obligations.CrcReadReturnsRegister : Prop :=
  encode .crcRead = 0x3000 ∧
  ∀ s : State, exec .crcRead s = .next { s with
    responses := s.responses ++ [⟨.ok, (s.block.crc ^^^ 0x0000).setWidth 32⟩] }

/-- R56: `CRC.INIT`, the bytes, `CRC.READ` evaluate `crc16`, from every idle state, whatever the
registers hold. -/
def Obligations.CrcProgramEvaluatesCrc16 : Prop :=
  ∀ (s : State) (bs : List Byte), s.block.phase = .idle →
    ∃ t, s.run (.crcInit :: bs.map .crcByte ++ [.crcRead]) = .next t ∧
      t.responses = s.responses ++ List.replicate (bs.length + 1) ⟨.ok, 0⟩ ++
        [⟨.ok, (crc16 bs).setWidth 32⟩] ∧
      t.block = { s.block with crc := crcFold 0xFFFF bs }

/-! ## The frame as a function (43_framer.md section 1) -/

/-- R65: the fields of `frame(p)`, at the positions of its table, for a payload of up to 255 bytes; above
that `buildFrame` fails with `PayloadTooLarge`. -/
def Obligations.FrameFieldsStandInOrder : Prop :=
  (∀ p : List Byte, 255 < p.length → buildFrame p = .error .payloadTooLarge) ∧
  ∀ p : List Byte, p.length ≤ 255 →
    buildFrame p = .ok (frame p) ∧
    (∀ i, i < 5 → (frame p)[i]? = some 0xAA) ∧
    (frame p)[5]? = some 0x7E ∧
    (frame p)[6]? = some (BitVec.ofNat 8 p.length) ∧
    (∀ i, i < p.length → (frame p)[7 + i]? = p[i]?) ∧
    (frame p)[7 + p.length]? = some ((crc16 (BitVec.ofNat 8 p.length :: p)).extractLsb' 8 8) ∧
    (frame p)[8 + p.length]? = some ((crc16 (BitVec.ofNat 8 p.length :: p)).extractLsb' 0 8) ∧
    (frame p).length = 9 + p.length

/-- R66: length of the frame, length field and checksum field, for every payload of up to 255 bytes. -/
def Obligations.BuildFrameLengthAndChecksum : Prop :=
  ∀ p : List Byte, p.length ≤ 255 →
    ∃ f, buildFrame p = .ok f ∧ f.length = 5 + 1 + 1 + p.length + 2 ∧ 9 ≤ f.length ∧ f.length ≤ 264 ∧
      ∃ n : Byte, f[6]? = some n ∧ n.toNat = p.length ∧
        ∃ hi lo : Byte, f.drop (7 + p.length) = [hi, lo] ∧ crc16 (n :: p) = hi ++ lo

/-! ## The FRM unit (43_framer.md section 2) -/

/-- R67: `FRM.CLEAR`. -/
def Obligations.FrmClearEmptiesBuffer : Prop :=
  encode .frmClear = 0x4000 ∧
  ∀ s : State,
    (s.block.phase = .idle → exec .frmClear s = .next { s with
      block := { s.block with plen := 0 }, responses := s.responses ++ [⟨.ok, 0⟩] }) ∧
    (s.block.phase ≠ .idle → exec .frmClear s = .next { s with
      responses := s.responses ++ [⟨.error .busy, 0⟩] })

/-- R68: `FRM.PUSH b`. It stores at `PLEN` (`pushIndex`) while there is room, and no other cell changes;
from 255 on it stores nothing and `PLEN` is 256. -/
def Obligations.FrmPushAppendsOneByte : Prop :=
  (∀ b : Byte, encode (.frmPush b) = 0x5000 ||| b.setWidth 16) ∧
  ∀ (b : Byte) (s : State),
    (s.block.phase = .idle → s.block.plen.val ≤ 254 → ∃ i t, pushIndex s.block = some i ∧
      i.val = s.block.plen.val ∧ exec (.frmPush b) s = .next t ∧
      t.responses = s.responses ++ [⟨.ok, 0⟩] ∧ t.block.plen.val = s.block.plen.val + 1 ∧
      t.block.pbufRead i = b ∧ (∀ j, j ≠ i → t.block.pbufRead j = s.block.pbufRead j) ∧
      t.block = { s.block with pbuf := t.block.pbuf, plen := t.block.plen } ∧
      t.inputs = s.inputs ∧ t.host = s.host) ∧
    (s.block.phase = .idle → 255 ≤ s.block.plen.val → pushIndex s.block = none ∧
      exec (.frmPush b) s = .next { s with
        block := { s.block with plen := 256 }, responses := s.responses ++ [⟨.ok, 0⟩] }) ∧
    (s.block.phase ≠ .idle → exec (.frmPush b) s = .next { s with
      responses := s.responses ++ [⟨.error .busy, 0⟩] })

/-- R69: `FRM.START`. -/
def Obligations.FrmStartBeginsFrame : Prop :=
  encode .frmStart = 0x6000 ∧
  ∀ s : State,
    (s.block.phase = .idle → s.block.plen.val ≤ 255 → exec .frmStart s = .next { s with
      block := { s.block with phase := .preamble, idx := 0, crc := 0xFFFF },
      responses := s.responses ++ [⟨.ok, 0⟩] }) ∧
    (s.block.phase = .idle → s.block.plen.val = 256 → exec .frmStart s = .next { s with
      responses := s.responses ++ [⟨.error .payloadTooLarge, 0⟩] }) ∧
    (s.block.phase ≠ .idle → exec .frmStart s = .next { s with
      responses := s.responses ++ [⟨.error .busy, 0⟩] })

/-- R70: `FRM.NEXT`, phase by phase as its pseudocode has it, on every state with the invariants of
R26; the data is the byte, plus 0x100 (`last`) on the last one. -/
def Obligations.FrmNextReturnsNextByte : Prop :=
  encode .frmNext = 0x7000 ∧
  ∀ s : State, Reachable s.block →
    (s.block.phase = .idle → exec .frmNext s = .next { s with
      responses := s.responses ++ [⟨.error .noFrame, 0⟩] }) ∧
    (s.block.phase = .preamble → s.block.idx.val < 4 → ∃ i : Fin 255,
      i.val = s.block.idx.val + 1 ∧ exec .frmNext s = .next { s with
        block := { s.block with idx := i }, responses := s.responses ++ [⟨.ok, 0xAA⟩] }) ∧
    (s.block.phase = .preamble → s.block.idx.val = 4 → exec .frmNext s = .next { s with
      block := { s.block with phase := .sync, idx := 0 },
      responses := s.responses ++ [⟨.ok, 0xAA⟩] }) ∧
    (s.block.phase = .sync → exec .frmNext s = .next { s with
      block := { s.block with phase := .length }, responses := s.responses ++ [⟨.ok, 0x7E⟩] }) ∧
    (s.block.phase = .length → exec .frmNext s = .next { s with
      block := { s.block with
        crc := crcByte s.block.crc (BitVec.ofNat 8 s.block.plen.val)
        phase := if s.block.plen.val = 0 then .crcHi else .payload },
      responses := s.responses ++ [⟨.ok, BitVec.ofNat 32 s.block.plen.val⟩] }) ∧
    (s.block.phase = .payload → s.block.idx.val + 1 = s.block.plen.val →
      exec .frmNext s = .next { s with
        block := { s.block with
          crc := crcByte s.block.crc (s.block.pbufRead s.block.idx), phase := .crcHi, idx := 0 },
        responses := s.responses ++ [⟨.ok, (s.block.pbufRead s.block.idx).setWidth 32⟩] }) ∧
    (s.block.phase = .payload → s.block.idx.val + 1 ≠ s.block.plen.val → ∃ i : Fin 255,
      i.val = s.block.idx.val + 1 ∧ exec .frmNext s = .next { s with
        block := { s.block with
          crc := crcByte s.block.crc (s.block.pbufRead s.block.idx), idx := i },
        responses := s.responses ++ [⟨.ok, (s.block.pbufRead s.block.idx).setWidth 32⟩] }) ∧
    (s.block.phase = .crcHi → exec .frmNext s = .next { s with
      block := { s.block with phase := .crcLo },
      responses := s.responses ++ [⟨.ok, ((s.block.crc ^^^ 0x0000).extractLsb' 8 8).setWidth 32⟩] }) ∧
    (s.block.phase = .crcLo → exec .frmNext s = .next { s with
      block := { s.block with phase := .idle },
      responses := s.responses ++
        [⟨.ok, ((s.block.crc ^^^ 0x0000).extractLsb' 0 8).setWidth 32 ||| 0x100⟩] })

/-- R71: `FRM.STAT`, in every phase: `PLEN` in bits 8 to 0, `PHASE` in 11 to 9, `IDX` in 19 to 12, 0
above. -/
def Obligations.FrmStatShowsFramerState : Prop :=
  encode .frmStat = 0x8000 ∧
  ∀ s : State, ∃ d : ResponseData,
    exec .frmStat s = .next { s with responses := s.responses ++ [⟨.ok, d⟩] } ∧
    (d.extractLsb' 0 9).toNat = s.block.plen.val ∧ d.extractLsb' 9 3 = phaseCode s.block.phase ∧
    (d.extractLsb' 12 8).toNat = s.block.idx.val ∧ d.extractLsb' 20 12 = 0 ∧
    s.block.ovf = d.getLsbD 8 ∧ s.block.busy = (d.extractLsb' 9 3 != 0)

/-- R72, the framing theorem: from every idle state the program that pushes `p`, starts the frame and
reads `9 + len(p)` bytes, with any `CRC.READ`, `FRM.STAT` and `TIM.*` commands anywhere between, reads
out exactly `frame(p)`, `last` on the final byte only. -/
def Obligations.FramingTheorem : Prop :=
  ∀ (s : State) (p : List Byte) (is : List Instr), s.block.phase = .idle → p.length ≤ 255 →
    is.filter (fun i => !bystander i) =
      .frmClear :: p.map .frmPush ++ .frmStart :: List.replicate (9 + p.length) .frmNext →
    ∃ (t : State) (rs ns : List Response), s.run is = .next t ∧
      t.responses = s.responses ++ rs ∧ rs.length = is.length ∧
      ((is.zip rs).filter (fun x => !bystander x.1)).map Prod.snd =
        List.replicate (p.length + 2) ⟨.ok, 0⟩ ++ ns ∧
      (∀ r ∈ ns, r.status = .ok) ∧ ns.map Response.frameByte = frame p ∧
      ns.map Response.last = List.replicate (8 + p.length) false ++ [true] ∧
      t.block.phase = .idle ∧ t.block.idx.val = 0 ∧ t.block.plen.val = p.length ∧
      t.block.pbufPrefix p.length = p ∧ t.block.crc = crc16 (BitVec.ofNat 8 p.length :: p)

/-- R74: after a frame, `FRM.START` and `9 + PLEN` times `FRM.NEXT` deliver the frame of what the buffer
holds, again and again, and leave buffer and length as they were. -/
def Obligations.StartedFrameIsThatOfTheBuffer : Prop :=
  ∀ s : State, Idle s.block → s.block.plen.val ≤ 255 →
    ∃ (t : State) (ns : List Response),
      s.run (.frmStart :: List.replicate (9 + s.block.plen.val) .frmNext) = .next t ∧
      t.responses = s.responses ++ ⟨.ok, 0⟩ :: ns ∧ (∀ r ∈ ns, r.status = .ok) ∧
      ns.map Response.frameByte = frame s.block.payload ∧
      t.block = { s.block with crc := crc16 (BitVec.ofNat 8 s.block.plen.val :: s.block.payload) }

/-- R13, R68: after `FRM.CLEAR` the pushes are counted, saturating at 256, and the buffer keeps the first
255 bytes. -/
def Obligations.PushesAreCountedAndStored : Prop :=
  ∀ (s : State) (p : List Byte), s.block.phase = .idle →
    ∃ t, s.run (.frmClear :: p.map .frmPush) = .next t ∧
      t.responses = s.responses ++ List.replicate (p.length + 1) ⟨.ok, 0⟩ ∧
      t.block.plen.val = min p.length 256 ∧
      t.block.pbufPrefix (min p.length 255) = p.take 255 ∧
      t.block = { s.block with pbuf := t.block.pbuf, plen := t.block.plen }

/-- R73: with 256 or more bytes pushed, `FRM.START` answers `PayloadTooLarge`, not one byte can be read,
and the condition lasts until `FRM.CLEAR` or reset. -/
def Obligations.OversizePayloadEmitsNothing : Prop :=
  ∀ (s : State) (p : List Byte), s.block.phase = .idle → 256 ≤ p.length →
    ∃ t, s.run (.frmClear :: p.map .frmPush) = .next t ∧ t.block.phase = .idle ∧
      ∀ (u : State) (is : List Instr), .frmClear ∉ is → u.block = t.block →
        ∃ v, u.run is = .next v ∧ v.block.phase = .idle ∧ v.block.plen.val = 256 ∧
          exec .frmStart v = .next { v with
            responses := v.responses ++ [⟨.error .payloadTooLarge, 0⟩] } ∧
          exec .frmNext v = .next { v with responses := v.responses ++ [⟨.error .noFrame, 0⟩] }

/-- R120: from every busy reachable state a number of `FRM.NEXT`, at least 1 and at most `9 + PLEN`,
finishes the frame: all of them answer `OK`, `last` comes with the final one only, and the block is
then idle. -/
def Obligations.BusyFrameIsReadToItsEnd : Prop :=
  ∀ s : State, Reachable s.block → s.block.phase ≠ .idle →
    ∃ (k : Nat) (t : State) (ns : List Response), k + 1 ≤ 9 + s.block.plen.val ∧
      s.run (List.replicate (k + 1) .frmNext) = .next t ∧
      t.responses = s.responses ++ ns ∧ (∀ r ∈ ns, r.status = .ok) ∧
      ns.map Response.last = List.replicate k false ++ [true] ∧ t.block.phase = .idle

/-- R29, R104: while a frame is in progress no command changes the payload or its length, and only
`FRM.NEXT` changes the checksum and moves the sequencer. -/
def Obligations.FrameInProgressIsProtected : Prop :=
  ∀ (s t : State) (w : CommandWord) (rest : List Input),
    s.inputs = .command w :: rest → s.block.phase ≠ .idle → step s = .next t →
    t.block.pbuf = s.block.pbuf ∧ t.block.plen = s.block.plen ∧
    (decode w ≠ .ok .frmNext → t.block.crc = s.block.crc ∧ t.block.phase = s.block.phase ∧
      t.block.idx = s.block.idx)

/-! ## The TIM unit (44_timing.md) -/

/-- R80, R81: the bits of the largest frame, and the least number of milliseconds that holds them and
their guard, `20 × (9 + P)` bits in all, at the rate. -/
def Obligations.MinIntervalIsLeast : Prop :=
  ∀ P baud : Nat, 0 < baud →
    maxFrameBits P = (5 + 1 + 1 + P + 2) * 8 ∧
    2 * guardBits P = 3 * maxFrameBits P ∧ maxFrameBits P + guardBits P = 20 * (9 + P) ∧
    20 * (9 + P) * 1000 ≤ minIntervalFor P baud * baud ∧
    ∀ n, 20 * (9 + P) * 1000 ≤ n * baud → minIntervalFor P baud ≤ n

/-- R88: the minimum interval does not rise with the rate and is at least 1, for every payload bound;
over the six rates with the bound of 255 bytes it falls strictly. -/
def Obligations.MinIntervalIsMonotoneAndPositive : Prop :=
  (∀ P baud baud' : Nat, 0 < baud → baud ≤ baud' →
    minIntervalFor P baud' ≤ minIntervalFor P baud ∧ 1 ≤ minIntervalFor P baud') ∧
  ∀ r r' : Fin 6, r < r' → minInterval r' < minInterval r

/-- R82: the evaluated table, the multiples 1 to 10 of the six minima with the bound of 255 bytes; all
six divisions are exact. -/
def Obligations.MinIntervalTable : Prop :=
  (List.finRange 6).map (fun r => (List.range 10).map fun k => (k + 1) * minInterval r) =
    [[8800, 17600, 26400, 35200, 44000, 52800, 61600, 70400, 79200, 88000],
     [4400, 8800, 13200, 17600, 22000, 26400, 30800, 35200, 39600, 44000],
     [2200, 4400, 6600, 8800, 11000, 13200, 15400, 17600, 19800, 22000],
     [1100, 2200, 3300, 4400, 5500, 6600, 7700, 8800, 9900, 11000],
     [550, 1100, 1650, 2200, 2750, 3300, 3850, 4400, 4950, 5500],
     [275, 550, 825, 1100, 1375, 1650, 1925, 2200, 2475, 2750]] ∧
  (List.finRange 6).map baudOf = [600, 1200, 2400, 4800, 9600, 19200] ∧
  (∀ r : Fin 6, minInterval r * baudOf r = 5280000) ∧
  [600, 1200, 2400, 4800, 9600, 19200].map (minIntervalFor 0) = [300, 150, 75, 38, 19, 10]

/-- R83: `TIM.BAUD s`. -/
def Obligations.TimBaudSelectsRate : Prop :=
  (∀ sel : BitVec 3, encode (.timBaud sel) = 0x9000 ||| sel.setWidth 16) ∧
  ∀ (sel : BitVec 3) (s : State),
    (sel.toNat ≤ 5 → ∃ r : Fin 6, r.val = sel.toNat ∧ exec (.timBaud sel) s = .next { s with
      block := { s.block with baudSel := .selected r }, responses := s.responses ++ [⟨.ok, 0⟩] }) ∧
    (6 ≤ sel.toNat → exec (.timBaud sel) s = .next { s with
      responses := s.responses ++ [⟨.error .inputRange, 0⟩] })

/-- R84: `TIM.MULT k`. -/
def Obligations.TimMultSelectsMultiple : Prop :=
  (∀ k : BitVec 4, encode (.timMult k) = 0xA000 ||| k.setWidth 16) ∧
  ∀ (k : BitVec 4) (s : State),
    (1 ≤ k.toNat → k.toNat ≤ 10 → ∃ m : Fin 11, m.val = k.toNat ∧
      exec (.timMult k) s = .next { s with
        block := { s.block with mult := m }, responses := s.responses ++ [⟨.ok, 0⟩] }) ∧
    (k.toNat = 0 ∨ 11 ≤ k.toNat → exec (.timMult k) s = .next { s with
      responses := s.responses ++ [⟨.error .inputRange, 0⟩] })

/-- R85: `TIM.RDMIN`, for every value of the parameter `MAX_PAYLOAD_BYTES`. -/
def Obligations.TimRdminReadsMinimum : Prop :=
  encode .timRdmin = 0xB000 ∧
  ∀ s : State,
    (∀ r, s.block.baudSel = .selected r → ∃ d : ResponseData,
      d.toNat = minIntervalFor s.maxPayloadBytes.val (baudOf r) ∧ exec .timRdmin s = .next { s with
        responses := s.responses ++ [⟨.ok, d⟩] }) ∧
    (s.block.baudSel = .unselected → exec .timRdmin s = .next { s with
      responses := s.responses ++ [⟨.error .notConfigured, 0⟩] })

/-- R86: `TIM.RDINT`, for every value of the parameter `MAX_PAYLOAD_BYTES`; the product never wraps and
is at most 88000. -/
def Obligations.TimRdintReadsChosenInterval : Prop :=
  encode .timRdint = 0xC000 ∧
  ∀ s : State,
    (∀ r, s.block.baudSel = .selected r → s.block.mult.val ≠ 0 → ∃ d : ResponseData,
      d.toNat = s.block.mult.val * minIntervalFor s.maxPayloadBytes.val (baudOf r) ∧ d.toNat ≤ 88000 ∧
      exec .timRdint s = .next { s with responses := s.responses ++ [⟨.ok, d⟩] }) ∧
    (s.block.baudSel = .unselected ∨ s.block.mult.val = 0 → exec .timRdint s = .next { s with
      responses := s.responses ++ [⟨.error .notConfigured, 0⟩] })

/-- R87: `TIM.RDCHOICE k`, for every value of the parameter `MAX_PAYLOAD_BYTES`:
an illegal `k` is reported before a rate that is not selected. -/
def Obligations.TimRdchoiceReadsMultiple : Prop :=
  (∀ k : BitVec 4, encode (.timRdchoice k) = 0xD000 ||| k.setWidth 16) ∧
  ∀ (k : BitVec 4) (s : State),
    (k.toNat = 0 ∨ 11 ≤ k.toNat → exec (.timRdchoice k) s = .next { s with
      responses := s.responses ++ [⟨.error .inputRange, 0⟩] }) ∧
    (1 ≤ k.toNat → k.toNat ≤ 10 →
      (∀ r, s.block.baudSel = .selected r → ∃ d : ResponseData,
        d.toNat = k.toNat * minIntervalFor s.maxPayloadBytes.val (baudOf r) ∧
        exec (.timRdchoice k) s = .next { s with
          responses := s.responses ++ [⟨.ok, d⟩] }) ∧
      (s.block.baudSel = .unselected → exec (.timRdchoice k) s = .next { s with
        responses := s.responses ++ [⟨.error .notConfigured, 0⟩] }))

/-! ## Frames: what is written by which command (10_state.md R10, 20_memory.md R38) -/

/-- The CRC register is written by `CRC.INIT`, `CRC.BYTE`, `FRM.START` and, in the phases `LENGTH` and
`PAYLOAD`, `FRM.NEXT`; by nothing else (R10, R11, R70). -/
def Obligations.CrcRegisterFrame : Prop :=
  ∀ (i : Instr) (s t : State), exec i s = .next t → i ≠ .crcInit → (∀ b, i ≠ .crcByte b) →
    i ≠ .frmStart →
    (i = .frmNext → s.block.phase ≠ .length ∧ s.block.phase ≠ .payload) →
    t.block.crc = s.block.crc

/-- `PBUF` is written by `FRM.PUSH` alone, at the index `pushIndex` gives and nowhere else; `PLEN` by
`FRM.PUSH` and `FRM.CLEAR` alone (R10, R12, R13, R30). -/
def Obligations.PayloadBufferFrame : Prop :=
  ∀ (i : Instr) (s t : State), exec i s = .next t →
    ((∀ b, i ≠ .frmPush b) → ∀ a, t.block.pbufRead a = s.block.pbufRead a) ∧
    (∀ b, i = .frmPush b → ∀ a, pushIndex s.block ≠ some a →
      t.block.pbufRead a = s.block.pbufRead a) ∧
    ((∀ b, i ≠ .frmPush b) → i ≠ .frmClear → t.block.plen = s.block.plen)

/-- R77: `PHASE` and `IDX` change only by `FRM.START` and `FRM.NEXT`. -/
def Obligations.SequencerFrame : Prop :=
  ∀ (i : Instr) (s t : State), exec i s = .next t → i ≠ .frmStart → i ≠ .frmNext →
    t.block.phase = s.block.phase ∧ t.block.idx = s.block.idx

/-- `BAUDSEL` is written by `TIM.BAUD` alone and `MULT` by `TIM.MULT` alone (R10, R16, R17). -/
def Obligations.SelectorFrame : Prop :=
  ∀ (i : Instr) (s t : State), exec i s = .next t →
    ((∀ sel, i ≠ .timBaud sel) → t.block.baudSel = s.block.baudSel) ∧
    ((∀ k, i ≠ .timMult k) → t.block.mult = s.block.mult)

/-- R38: the read commands change no state, and no command touches the pending inputs, the host agent or
the parameter. -/
def Obligations.ReadCommandsChangeNoState : Prop :=
  ∀ (i : Instr) (s t : State), exec i s = .next t →
    (i = .crcRead ∨ i = .frmStat ∨ i = .timRdmin ∨ i = .timRdint ∨ (∃ k, i = .timRdchoice k) →
      t.block = s.block) ∧
    t.inputs = s.inputs ∧ t.host = s.host ∧ t.maxPayloadBytes = s.maxPayloadBytes

/-- R7: `MAX_PAYLOAD_BYTES` is a parameter: no step changes it, whatever the input. -/
def Obligations.ParameterNeverChanges : Prop :=
  ∀ s t : State, step s = .next t → t.maxPayloadBytes = s.maxPayloadBytes

/-! ## Invariants and noninterference -/

/-- The invariants hold at reset (R27, R116). -/
def Obligations.InvariantHoldsAtReset : Prop := Inv State.reset

/-- R26: the invariants of every reachable state, with the canonical form of `PBUF`'s cells and the
bounds of the host's session (R92), are kept by every step, whatever the input. -/
def Obligations.EveryStepKeepsInvariant : Prop :=
  ∀ s t : State, Inv s → step s = .next t → Inv t

/-- The invariants of R26 hold in every state reached from reset by any sequence of inputs, as far as the
inputs have a meaning. That the cells of `PBUF` stay in their canonical form (log 3) and that reset has
no inputs, no session and no cells listed (log 22, log 3) is the model's choice, and the bounds of the
session are those of 45_scheduler.md R90 to R93. -/
def Obligations.InvariantHoldsOnEveryRun : Prop :=
  ∀ (xs : List Input) (n : Nat) (t : State),
    Sys2Proof.core.run n { State.reset with inputs := xs } = .next t → Inv t

/-- No reachable state faults (R28 (b)): the sequencer's index never leaves 0 to 254. -/
def Obligations.ReachableStateNeverFaults : Prop :=
  ∀ (s : State) (f : Fault), Inv s → step s ≠ .fault f

/-- R8, R27: what a command answers, and what can ever be answered later, does not depend on the cells
of `PBUF` at or above `PLEN`, nor on anything outside the block but the parameter. -/
def Obligations.UnreadCellsAreUnobservable : Prop :=
  ∀ (a b a' : State) (w : CommandWord) (restA restB : List Input),
    Reachable a.block → Reachable b.block → a.block.agree b.block →
    a.maxPayloadBytes = b.maxPayloadBytes →
    a.inputs = .command w :: restA → b.inputs = .command w :: restB → step a = .next a' →
    ∃ (b' : State) (r : Response), step b = .next b' ∧ a'.responses = a.responses ++ [r] ∧
      b'.responses = b.responses ++ [r] ∧ a'.block.agree b'.block

/-! ## The host agent (42_catalog.md, 45_scheduler.md) -/

/-- R94, with R93 and R96: a valid plan whose sends all succeed hands the frame to the sink
`ceil(durationSeconds × 1000 / intervalMillis)` times, that number is the run's result, and the block
and its port are untouched. How the run and its result are held is the model's choice (log 8), and so is
that the host does not read the frame from the block again during the run (log 23). -/
def Obligations.RunSendsPacketCountFrames : Prop :=
  ∀ (s : State) (d i : Int) (f : List Byte), 0 ≤ d → d ≤ 300 → 1 ≤ i → s.host.session = none →
    ∃ (n : Nat) (t : State), d * 1000 ≤ n * i ∧ (n : Int) * i < d * 1000 + i ∧
      Sys2Proof.core.run (n + 2)
        { s with inputs := .beginRun d i f :: List.replicate (n + 1) (.loop true) } = .next t ∧
      t.host.session = none ∧ t.host.runs = s.host.runs ++ [.completed n] ∧
      t.host.sent = s.host.sent ++ List.replicate n f ∧
      t.block = s.block ∧ t.responses = s.responses

/-- R96: the first failing send ends the run at once, with the sends that succeeded before it counted
and nothing more handed over. How the run and its result are held is the model's choice (log 8), and so is
that the host does not read the frame from the block again during the run (log 23). -/
def Obligations.FailedSendEndsRun : Prop :=
  ∀ (s : State) (p : Plan) (k : Nat), p.valid = true → k < packetCount p →
    s.host.session = some (openSession p) →
    ∃ t, Sys2Proof.core.run (k + 1)
        { s with inputs := List.replicate k (.loop true) ++ [.loop false] } = .next t ∧
      t.host.session = none ∧ t.host.runs = s.host.runs ++ [.transportError k] ∧
      t.host.sent = s.host.sent ++ List.replicate k p.frame ∧ t.block = s.block

/-- R91: a plan out of bounds is refused before it is constructed, never clamped: no session, nothing
sent, the block untouched. -/
def Obligations.InvalidPlanIsRejected : Prop :=
  ∀ (s : State) (d i : Int) (f : List Byte) (rest : List Input),
    s.inputs = .beginRun d i f :: rest → s.host.session = none → (d < 0 ∨ 300 < d ∨ i < 1) →
    step s = .next { s with
      inputs := rest, host := { s.host with runs := s.host.runs ++ [.rejected] } }

/-- R98, with R72 and R86: the host that sets rate and multiple and frames a payload sees `FRM.START`
answer `OK`, as the script expects, and reads out of the responses exactly the plan of that frame and
interval (the commands and their order are the model's choice, log 19 and log 23). A host that selected
cancel does nothing at all (R63), and one that got an error asks for no run (the model's choice,
log 24). -/
def Obligations.HostReadsPlanFromBlock : Prop :=
  (∀ (s : State) (sel : BitVec 3) (k : BitVec 4) (p : List Byte) (d : Int) (r : Fin 6),
    Idle s.block → p.length ≤ 255 → r.val = sel.toNat → 1 ≤ k.toNat → k.toNat ≤ 10 →
    ∃ (t : State) (rs : List Response),
      s.run (preparationScript (startAnswer s.block p.length) sel k p) = .next t ∧
      t.responses = s.responses ++ rs ∧ rs[4 + p.length]? = some ⟨startAnswer s.block p.length, 0⟩ ∧
      planFromResponses d p.length rs = some
        (.beginRun d (k.toNat * minIntervalFor s.maxPayloadBytes.val (baudOf r) : Nat) (frame p))) ∧
  (∀ (answer : Status) (sel : BitVec 3) (k : BitVec 4) (d : Int) (rs : List Response)
    (answers : List Bool),
    selectionScript answer sel k .cancel = [] ∧ selectionRun d rs answers .cancel = []) ∧
  ∀ (c : Config.CatalogCommand) (d : Int) (rs : List Response) (answers : List Bool) (r : Response),
    r ∈ rs → r.status ≠ .ok → selectionRun d rs answers (.catalogCommand c) = []

/-- R125, information only (G4): at the six rates the minimum interval is two and a half times the air
time of the largest frame. -/
def Obligations.MinIntervalIsFrameAndGuard : Prop :=
  ∀ r : Fin 6, (minInterval r : ℚ) = 5 / 2 * airTimeMillis 255 (baudOf r)
end

