-- ==== Sys2Proof/Laws/Crc.lean ====
section
/-! SUPPORT. The laws of the CRC over byte sequences. -/

namespace Sys2Proof.Machine

@[simp] theorem crcResult_eq (c : CrcWord) : crcResult c = c := by simp [crcResult, Config.crcXorOut]

@[simp] theorem crcFold_nil (c : CrcWord) : crcFold c [] = c := rfl

@[simp] theorem crcFold_cons (c : CrcWord) (b : Byte) (bs : List Byte) :
    crcFold c (b :: bs) = crcFold (crcByte c b) bs := rfl

theorem crcFold_append (c : CrcWord) (as bs : List Byte) :
    crcFold c (as ++ bs) = crcFold (crcFold c as) bs := List.foldl_append

theorem crc16_eq_fold (bs : List Byte) : crc16 bs = crcFold 0xFFFF bs := by
  simp [crc16, Config.crcInit]

/-- One more byte is one more step of the register. -/
theorem crc16_concat (bs : List Byte) (b : Byte) : crc16 (bs ++ [b]) = crcByte (crc16 bs) b := by
  simp [crc16_eq_fold, crcFold_append]

/-- A bit step is linear: the input bit may be folded into the top of the register. -/
theorem crcBit_eq_crcBit_false (c : CrcWord) (d : Bool) :
    crcBit c d = crcBit (c ^^^ (if d then 0x8000 else 0)) false := by
  cases d
  · simp
  · have hshift : (c ^^^ 0x8000#16) <<< 1 = c <<< 1 := by
      rw [BitVec.shiftLeft_xor_distrib]
      simp
    have htop : (c ^^^ 0x8000#16).getMsbD 0 = !c.getMsbD 0 := by simp
    show crcBit c true = crcBit (c ^^^ 0x8000#16) false
    simp only [crcBit, hshift, htop, Bool.xor_true, Bool.xor_false]

end Sys2Proof.Machine
end

