-- ==== Sys2Proof/Laws/State.lean ====
section
/-! SUPPORT. One lemma per field per update of the state, each by its definition, so that no later
proof unfolds a record update. -/

namespace Sys2Proof.Machine

variable (s : State)

/-! ### setCrc -/

@[simp] theorem State.setCrc_crc (c : CrcWord) :
    (s.setCrc c).block.crc = c := rfl
@[simp] theorem State.setCrc_pbuf (c : CrcWord) :
    (s.setCrc c).block.pbuf = s.block.pbuf := rfl
@[simp] theorem State.setCrc_plen (c : CrcWord) :
    (s.setCrc c).block.plen = s.block.plen := rfl
@[simp] theorem State.setCrc_phase (c : CrcWord) :
    (s.setCrc c).block.phase = s.block.phase := rfl
@[simp] theorem State.setCrc_idx (c : CrcWord) :
    (s.setCrc c).block.idx = s.block.idx := rfl
@[simp] theorem State.setCrc_baudSel (c : CrcWord) :
    (s.setCrc c).block.baudSel = s.block.baudSel := rfl
@[simp] theorem State.setCrc_mult (c : CrcWord) :
    (s.setCrc c).block.mult = s.block.mult := rfl
@[simp] theorem State.setCrc_inputs (c : CrcWord) : (s.setCrc c).inputs = s.inputs := rfl
@[simp] theorem State.setCrc_responses (c : CrcWord) : (s.setCrc c).responses = s.responses := rfl
@[simp] theorem State.setCrc_host (c : CrcWord) : (s.setCrc c).host = s.host := rfl
@[simp] theorem State.setCrc_maxPayloadBytes (c : CrcWord) :
    (s.setCrc c).maxPayloadBytes = s.maxPayloadBytes := rfl

/-! ### setPlen -/

@[simp] theorem State.setPlen_crc (n : Fin 257) :
    (s.setPlen n).block.crc = s.block.crc := rfl
@[simp] theorem State.setPlen_pbuf (n : Fin 257) :
    (s.setPlen n).block.pbuf = s.block.pbuf := rfl
@[simp] theorem State.setPlen_plen (n : Fin 257) :
    (s.setPlen n).block.plen = n := rfl
@[simp] theorem State.setPlen_phase (n : Fin 257) :
    (s.setPlen n).block.phase = s.block.phase := rfl
@[simp] theorem State.setPlen_idx (n : Fin 257) :
    (s.setPlen n).block.idx = s.block.idx := rfl
@[simp] theorem State.setPlen_baudSel (n : Fin 257) :
    (s.setPlen n).block.baudSel = s.block.baudSel := rfl
@[simp] theorem State.setPlen_mult (n : Fin 257) :
    (s.setPlen n).block.mult = s.block.mult := rfl
@[simp] theorem State.setPlen_inputs (n : Fin 257) : (s.setPlen n).inputs = s.inputs := rfl
@[simp] theorem State.setPlen_responses (n : Fin 257) : (s.setPlen n).responses = s.responses := rfl
@[simp] theorem State.setPlen_host (n : Fin 257) : (s.setPlen n).host = s.host := rfl
@[simp] theorem State.setPlen_maxPayloadBytes (n : Fin 257) :
    (s.setPlen n).maxPayloadBytes = s.maxPayloadBytes := rfl

/-! ### setPbuf -/

@[simp] theorem State.setPbuf_crc (i : Fin 255) (v : Byte) :
    (s.setPbuf i v).block.crc = s.block.crc := rfl
@[simp] theorem State.setPbuf_pbuf (i : Fin 255) (v : Byte) :
    (s.setPbuf i v).block.pbuf = Memory.write s.block.pbuf i.val v := rfl
@[simp] theorem State.setPbuf_plen (i : Fin 255) (v : Byte) :
    (s.setPbuf i v).block.plen = s.block.plen := rfl
@[simp] theorem State.setPbuf_phase (i : Fin 255) (v : Byte) :
    (s.setPbuf i v).block.phase = s.block.phase := rfl
@[simp] theorem State.setPbuf_idx (i : Fin 255) (v : Byte) :
    (s.setPbuf i v).block.idx = s.block.idx := rfl
@[simp] theorem State.setPbuf_baudSel (i : Fin 255) (v : Byte) :
    (s.setPbuf i v).block.baudSel = s.block.baudSel := rfl
@[simp] theorem State.setPbuf_mult (i : Fin 255) (v : Byte) :
    (s.setPbuf i v).block.mult = s.block.mult := rfl
@[simp] theorem State.setPbuf_inputs (i : Fin 255) (v : Byte) : (s.setPbuf i v).inputs = s.inputs := rfl
@[simp] theorem State.setPbuf_responses (i : Fin 255) (v : Byte) : (s.setPbuf i v).responses = s.responses := rfl
@[simp] theorem State.setPbuf_host (i : Fin 255) (v : Byte) : (s.setPbuf i v).host = s.host := rfl
@[simp] theorem State.setPbuf_maxPayloadBytes (i : Fin 255) (v : Byte) :
    (s.setPbuf i v).maxPayloadBytes = s.maxPayloadBytes := rfl

/-! ### setSequencer -/

@[simp] theorem State.setSequencer_crc (p : Phase) (i : Fin 255) :
    (s.setSequencer p i).block.crc = s.block.crc := rfl
@[simp] theorem State.setSequencer_pbuf (p : Phase) (i : Fin 255) :
    (s.setSequencer p i).block.pbuf = s.block.pbuf := rfl
@[simp] theorem State.setSequencer_plen (p : Phase) (i : Fin 255) :
    (s.setSequencer p i).block.plen = s.block.plen := rfl
@[simp] theorem State.setSequencer_phase (p : Phase) (i : Fin 255) :
    (s.setSequencer p i).block.phase = p := rfl
@[simp] theorem State.setSequencer_idx (p : Phase) (i : Fin 255) :
    (s.setSequencer p i).block.idx = i := rfl
@[simp] theorem State.setSequencer_baudSel (p : Phase) (i : Fin 255) :
    (s.setSequencer p i).block.baudSel = s.block.baudSel := rfl
@[simp] theorem State.setSequencer_mult (p : Phase) (i : Fin 255) :
    (s.setSequencer p i).block.mult = s.block.mult := rfl
@[simp] theorem State.setSequencer_inputs (p : Phase) (i : Fin 255) : (s.setSequencer p i).inputs = s.inputs := rfl
@[simp] theorem State.setSequencer_responses (p : Phase) (i : Fin 255) : (s.setSequencer p i).responses = s.responses := rfl
@[simp] theorem State.setSequencer_host (p : Phase) (i : Fin 255) : (s.setSequencer p i).host = s.host := rfl
@[simp] theorem State.setSequencer_maxPayloadBytes (p : Phase) (i : Fin 255) :
    (s.setSequencer p i).maxPayloadBytes = s.maxPayloadBytes := rfl

/-! ### setBaudSel -/

@[simp] theorem State.setBaudSel_crc (r : BaudSel) :
    (s.setBaudSel r).block.crc = s.block.crc := rfl
@[simp] theorem State.setBaudSel_pbuf (r : BaudSel) :
    (s.setBaudSel r).block.pbuf = s.block.pbuf := rfl
@[simp] theorem State.setBaudSel_plen (r : BaudSel) :
    (s.setBaudSel r).block.plen = s.block.plen := rfl
@[simp] theorem State.setBaudSel_phase (r : BaudSel) :
    (s.setBaudSel r).block.phase = s.block.phase := rfl
@[simp] theorem State.setBaudSel_idx (r : BaudSel) :
    (s.setBaudSel r).block.idx = s.block.idx := rfl
@[simp] theorem State.setBaudSel_baudSel (r : BaudSel) :
    (s.setBaudSel r).block.baudSel = r := rfl
@[simp] theorem State.setBaudSel_mult (r : BaudSel) :
    (s.setBaudSel r).block.mult = s.block.mult := rfl
@[simp] theorem State.setBaudSel_inputs (r : BaudSel) : (s.setBaudSel r).inputs = s.inputs := rfl
@[simp] theorem State.setBaudSel_responses (r : BaudSel) : (s.setBaudSel r).responses = s.responses := rfl
@[simp] theorem State.setBaudSel_host (r : BaudSel) : (s.setBaudSel r).host = s.host := rfl
@[simp] theorem State.setBaudSel_maxPayloadBytes (r : BaudSel) :
    (s.setBaudSel r).maxPayloadBytes = s.maxPayloadBytes := rfl

/-! ### setMult -/

@[simp] theorem State.setMult_crc (k : Fin 11) :
    (s.setMult k).block.crc = s.block.crc := rfl
@[simp] theorem State.setMult_pbuf (k : Fin 11) :
    (s.setMult k).block.pbuf = s.block.pbuf := rfl
@[simp] theorem State.setMult_plen (k : Fin 11) :
    (s.setMult k).block.plen = s.block.plen := rfl
@[simp] theorem State.setMult_phase (k : Fin 11) :
    (s.setMult k).block.phase = s.block.phase := rfl
@[simp] theorem State.setMult_idx (k : Fin 11) :
    (s.setMult k).block.idx = s.block.idx := rfl
@[simp] theorem State.setMult_baudSel (k : Fin 11) :
    (s.setMult k).block.baudSel = s.block.baudSel := rfl
@[simp] theorem State.setMult_mult (k : Fin 11) :
    (s.setMult k).block.mult = k := rfl
@[simp] theorem State.setMult_inputs (k : Fin 11) : (s.setMult k).inputs = s.inputs := rfl
@[simp] theorem State.setMult_responses (k : Fin 11) : (s.setMult k).responses = s.responses := rfl
@[simp] theorem State.setMult_host (k : Fin 11) : (s.setMult k).host = s.host := rfl
@[simp] theorem State.setMult_maxPayloadBytes (k : Fin 11) :
    (s.setMult k).maxPayloadBytes = s.maxPayloadBytes := rfl

end Sys2Proof.Machine
end

