-- ==== Sys2Proof/Laws/Ops.lean ====
section
/-! SUPPORT. Of each shared operation, once, everything it can do. -/

namespace Sys2Proof.Machine

@[simp] theorem respond_eq (st : Status) (d : ResponseData) (s : State) :
    respond st d s = .next { s with responses := s.responses ++ [⟨st, d⟩] } := rfl

@[simp] theorem respondOk_eq (d : ResponseData) (s : State) :
    respondOk d s = .next { s with responses := s.responses ++ [⟨.ok, d⟩] } := rfl

/-- Taking an error changes nothing but the responses (60_exceptions.md R107). -/
@[simp] theorem raise_eq (e : ErrorCause) (s : State) :
    raise e s = .next { s with responses := s.responses ++ [⟨.error e, 0⟩] } := rfl

theorem whenIdle_idle {s : State} (h : s.block.phase = .idle) (k : Result) : whenIdle s k = k :=
  if_pos h

theorem whenIdle_busy {s : State} (h : s.block.phase ≠ .idle) (k : Result) :
    whenIdle s k = raise .busy s := if_neg h

/-- What a guarded command can do: its own effect on an idle block, or `Busy`. -/
theorem whenIdle_cases {s t : State} {k : Result} (h : whenIdle s k = .next t) :
    (s.block.phase = .idle ∧ k = .next t) ∨
    (s.block.phase ≠ .idle ∧ t = { s with responses := s.responses ++ [⟨.error .busy, 0⟩] }) := by
  by_cases hp : s.block.phase = .idle
  · exact .inl ⟨hp, by rwa [whenIdle_idle hp] at h⟩
  · refine .inr ⟨hp, ?_⟩
    rw [whenIdle_busy hp, raise_eq] at h
    cases h
    rfl

theorem idxSucc_of_lt {i : Fin 255} (h : i.val + 1 < 255) : idxSucc i = some ⟨i.val + 1, h⟩ :=
  dif_pos h

theorem idxSucc_eq_none {i : Fin 255} : idxSucc i = none ↔ i.val = 254 := by
  unfold idxSucc
  split <;> simp <;> omega

theorem pushIndex_of_lt {b : Block} (h : b.plen.val < 255) :
    pushIndex b = some ⟨b.plen.val, h⟩ := dif_pos h

theorem pushIndex_of_le {b : Block} (h : 255 ≤ b.plen.val) : pushIndex b = none :=
  dif_neg (by omega)

theorem legalSelector_of_lt {s : BitVec 3} (h : s.toNat < 6) : legalSelector s = some ⟨s.toNat, h⟩ :=
  dif_pos h

theorem legalSelector_of_le {s : BitVec 3} (h : 6 ≤ s.toNat) : legalSelector s = none :=
  dif_neg (by omega)

theorem legalMultiplier_of_mem {k : BitVec 4} (h1 : 1 ≤ k.toNat) (h2 : k.toNat ≤ 10) :
    legalMultiplier k = some ⟨k.toNat, by omega⟩ := dif_pos ⟨h1, h2⟩

theorem legalMultiplier_of_not_mem {k : BitVec 4} (h : k.toNat = 0 ∨ 11 ≤ k.toNat) :
    legalMultiplier k = none :=
  dif_neg (by simp only [Config.multMin, Config.multMax]; omega)

/-- What one advance of the index can do. -/
theorem advanceIdx_cases {out : Byte} {s t : State} (h : advanceIdx out s = .next t) :
    ∃ i, idxSucc s.block.idx = some i ∧
      t = { s.setSequencer s.block.phase i with
        responses := s.responses ++ [⟨.ok, frameByteData out false⟩] } := by
  unfold advanceIdx at h
  split at h
  · rename_i i hi
    exact ⟨i, hi, by simpa [emitByte] using h.symm⟩
  · cases h

/-- What one step can do: hold the state when nothing is pending, or take the first input whole. -/
theorem step_cases {s t : State} (h : step s = .next t) :
    (s.inputs = [] ∧ t = s) ∨
    ∃ x rest, s.inputs = x :: rest ∧ runInput x { s with inputs := rest } = .next t := by
  unfold step stepInputs at h
  split at h
  · exact .inl ⟨‹_›, by cases h; rfl⟩
  · exact .inr ⟨_, _, ‹_›, h⟩

theorem step_of_inputs {s : State} {x : Input} {rest : List Input} (h : s.inputs = x :: rest) :
    step s = runInput x { s with inputs := rest } := by
  simp only [step, stepInputs, h]

/-- What a command word can do: run its command, or answer `IllegalCommand`. -/
theorem runCommand_cases {w : CommandWord} {s t : State} (h : runCommand w s = .next t) :
    (∃ i, decode w = .ok i ∧ exec i s = .next t) ∨
    ((∀ i, decode w ≠ .ok i) ∧
      t = { s with responses := s.responses ++ [⟨.error .illegalCommand, 0⟩] }) := by
  unfold runCommand at h
  split at h
  · exact .inl ⟨_, ‹_›, h⟩
  · rename_i e he
    exact .inr ⟨fun i hi => by simp [he] at hi, by simpa using h.symm⟩

end Sys2Proof.Machine
end

