-- ==== Sys2Proof/Laws/Exec.lean ====
section
/-! SUPPORT. What one command can do outside the block, once for all commands: it appends one response
and touches neither the pending inputs nor the host agent. -/

namespace Sys2Proof.Machine

theorem advanceIdx_next {out : Byte} {s t : State} (h : advanceIdx out s = .next t) :
    ∃ r, t = { s with block := t.block, responses := s.responses ++ [r] } := by
  obtain ⟨i, -, rfl⟩ := advanceIdx_cases h
  exact ⟨_, rfl⟩

theorem execFrmNext_next {s t : State} (h : execFrmNext s = .next t) :
    ∃ r, t = { s with block := t.block, responses := s.responses ++ [r] } := by
  unfold execFrmNext at h
  split at h
  case h_2 =>
    unfold nextPreamble at h
    split at h
    · exact ⟨_, by cases h; rfl⟩
    · exact advanceIdx_next h
  case h_5 =>
    simp only [nextPayload] at h
    split at h
    · exact ⟨_, by cases h; rfl⟩
    · obtain ⟨r, h⟩ := advanceIdx_next h
      exact ⟨r, h⟩
  all_goals exact ⟨_, by cases h; rfl⟩

theorem whenIdle_next {s t : State} {k : Result} (h : whenIdle s k = .next t)
    (hk : k = .next t → ∃ r, t = { s with block := t.block, responses := s.responses ++ [r] }) :
    ∃ r, t = { s with block := t.block, responses := s.responses ++ [r] } := by
  obtain ⟨-, h⟩ | ⟨-, rfl⟩ := whenIdle_cases h
  · exact hk h
  · exact ⟨_, rfl⟩

theorem respondInterval_next {v : Option Nat} {s t : State} (h : respondInterval v s = .next t) :
    ∃ r, t = { s with responses := s.responses ++ [r] } := by
  unfold respondInterval at h
  split at h <;> exact ⟨_, by cases h; rfl⟩

/-- Every command that gives a next state appends one response and changes the block, nothing else. -/
theorem exec_next {i : Instr} {s t : State} (h : exec i s = .next t) :
    ∃ r, t = { s with block := t.block, responses := s.responses ++ [r] } := by
  cases i with
  | crcInit => exact whenIdle_next h fun h => ⟨_, by cases h; rfl⟩
  | crcByte b => exact whenIdle_next h fun h => ⟨_, by cases h; rfl⟩
  | crcRead => exact ⟨_, by cases h; rfl⟩
  | frmClear => exact whenIdle_next h fun h => ⟨_, by cases h; rfl⟩
  | frmPush b =>
    refine whenIdle_next h fun h => ?_
    split at h <;> exact ⟨_, by cases h; rfl⟩
  | frmStart =>
    refine whenIdle_next h fun h => ?_
    split at h <;> exact ⟨_, by cases h; rfl⟩
  | frmNext => exact execFrmNext_next h
  | frmStat => exact ⟨_, by cases h; rfl⟩
  | timBaud sel =>
    simp only [exec, execTimBaud] at h
    split at h <;> exact ⟨_, by cases h; rfl⟩
  | timMult k =>
    simp only [exec, execTimMult] at h
    split at h <;> exact ⟨_, by cases h; rfl⟩
  | timRdmin =>
    obtain ⟨r, rfl⟩ := respondInterval_next h
    exact ⟨r, rfl⟩
  | timRdint =>
    obtain ⟨r, rfl⟩ := respondInterval_next h
    exact ⟨r, rfl⟩
  | timRdchoice k =>
    simp only [exec, execTimRdchoice] at h
    split at h
    · obtain ⟨r, rfl⟩ := respondInterval_next h
      exact ⟨r, rfl⟩
    · exact ⟨_, by cases h; rfl⟩

end Sys2Proof.Machine
end

