-- ==== Sys2Proof/Laws/Memory.lean ====
section
/-! SUPPORT. The laws of `PBUF`'s cells: a read after a write, and the canonical form. -/

namespace Sys2Proof.Machine

@[simp] theorem Memory.read_nil (i : Nat) : Memory.read [] i = unlistedByte := rfl

theorem Memory.read_cons (c : Host.Cell) (m : Memory) (j : Nat) :
    Memory.read (c :: m) j = if c.1 = j then c.2 else Memory.read m j := rfl

/-- Where no cell is listed, the unlisted byte is read. -/
theorem Memory.read_unlisted {m : Memory} {j : Nat} (h : ∀ c ∈ m, c.1 ≠ j) :
    Memory.read m j = unlistedByte := by
  induction m with
  | nil => rfl
  | cons c m ih =>
    rw [Memory.read_cons, if_neg (h c (by simp))]
    exact ih fun d hd => h d (by simp [hd])

/-- Taking out the cells of one index changes the reads of no other. -/
theorem Memory.read_filter (m : Memory) {i j : Nat} (hij : j ≠ i) :
    Memory.read (m.filter fun c => c.1 != i) j = Memory.read m j := by
  induction m with
  | nil => rfl
  | cons c m ih =>
    by_cases hc : c.1 = i
    · rw [List.filter_cons_of_neg (by simp [hc]), ih, Memory.read_cons, if_neg]
      exact fun h => hij (h.symm.trans hc)
    · rw [List.filter_cons_of_pos (by simpa using hc), Memory.read_cons, Memory.read_cons, ih]

/-- A cell put in its place is read at its index, and hides no other. -/
theorem Memory.read_insertCell (c : Host.Cell) {m : Memory} (h : ∀ d ∈ m, d.1 ≠ c.1) (j : Nat) :
    Memory.read (Memory.insertCell c m) j = if c.1 = j then c.2 else Memory.read m j := by
  induction m with
  | nil => rfl
  | cons d m ih =>
    have hd : d.1 ≠ c.1 := h d (by simp)
    have ih := ih fun e he => h e (by simp [he])
    unfold Memory.insertCell
    split
    · rfl
    · rw [Memory.read_cons, Memory.read_cons, ih]
      by_cases hcj : c.1 = j
      · rw [if_neg (fun hdj => hd (hdj.trans hcj.symm)), if_pos hcj, if_pos hcj]
      · simp only [hcj, if_false]

theorem Memory.not_mem_filter (m : Memory) (i : Nat) :
    ∀ c ∈ m.filter (fun c => c.1 != i), c.1 ≠ i := by
  intro c hc
  simpa using (List.mem_filter.1 hc).2

/-- A read after a write gives the byte written, and every other cell reads as before. -/
theorem Memory.read_write (m : Memory) (i : Nat) (v : Byte) (j : Nat) :
    Memory.read (Memory.write m i v) j = if j = i then v else Memory.read m j := by
  have hout := Memory.not_mem_filter m i
  unfold Memory.write
  by_cases hv : v = unlistedByte
  · by_cases hji : j = i
    · simp only [hv, hji, if_true, Memory.read_unlisted hout]
    · simp only [hv, hji, if_true, if_false, Memory.read_filter m hji]
  · simp only [hv, if_false]
    rw [Memory.read_insertCell (i, v) hout]
    by_cases hji : j = i
    · simp [hji]
    · rw [if_neg (fun h => hji h.symm), if_neg hji, Memory.read_filter m hji]

theorem Memory.mem_insertCell {c d : Host.Cell} {m : Memory}
    (h : d ∈ Memory.insertCell c m) : d = c ∨ d ∈ m := by
  induction m with
  | nil => simpa [Memory.insertCell] using h
  | cons e m ih =>
    unfold Memory.insertCell at h
    split at h
    · simpa using h
    · rcases List.mem_cons.1 h with rfl | h
      · simp
      · rcases ih h with h | h <;> simp [h]

theorem Memory.pairwise_insertCell {c : Host.Cell} {m : Memory}
    (hm : m.Pairwise (fun c d => c.1 < d.1)) (h : ∀ d ∈ m, d.1 ≠ c.1) :
    (Memory.insertCell c m).Pairwise (fun c d => c.1 < d.1) := by
  induction m with
  | nil => simp [Memory.insertCell]
  | cons d m ih =>
    obtain ⟨hd, hm'⟩ := List.pairwise_cons.1 hm
    have hdc : d.1 ≠ c.1 := h d (by simp)
    unfold Memory.insertCell
    split
    · rename_i hlt
      refine List.pairwise_cons.2 ⟨fun e he => ?_, hm⟩
      rcases List.mem_cons.1 he with rfl | he
      · exact hlt
      · exact hlt.trans (hd e he)
    · refine List.pairwise_cons.2 ⟨fun e he => ?_, ih hm' fun e he => h e (by simp [he])⟩
      rcases Memory.mem_insertCell he with rfl | he
      · omega
      · exact hd e he

/-- Every write of a cell of `PBUF` keeps the canonical form. -/
theorem Memory.wf_write {m : Memory} (hm : Memory.wf m) {i : Nat} (hi : i < pbufSize) (v : Byte) :
    Memory.wf (Memory.write m i v) := by
  have hf : (m.filter fun c => c.1 != i).Pairwise (fun c d => c.1 < d.1) := hm.1.filter _
  have hmem : ∀ c ∈ m.filter (fun c => c.1 != i), c.1 < pbufSize ∧ c.2 ≠ unlistedByte :=
    fun c hc => hm.2 c (List.mem_filter.1 hc).1
  unfold Memory.write
  by_cases hv : v = unlistedByte
  · simp only [hv, if_true]
    exact ⟨hf, hmem⟩
  · simp only [hv, if_false]
    refine ⟨Memory.pairwise_insertCell hf (Memory.not_mem_filter m i), fun c hc => ?_⟩
    rcases Memory.mem_insertCell hc with rfl | hc
    · exact ⟨hi, hv⟩
    · exact hmem c hc

/-- The memory at reset has the canonical form. -/
theorem Memory.wf_reset : Memory.wf State.reset.block.pbuf := by decide

/-- In the canonical form equal reads are equal data. -/
theorem Memory.eq_of_read_eq {m m' : Memory} (hm : Memory.wf m) (hm' : Memory.wf m')
    (h : ∀ j, Memory.read m j = Memory.read m' j) : m = m' := by
  have listed : ∀ {c : Host.Cell} {m : Memory}, Memory.wf (c :: m) →
      Memory.read (c :: m) c.1 = c.2 ∧ c.2 ≠ unlistedByte ∧ Memory.read m c.1 = unlistedByte := by
    intro c m hw
    refine ⟨by simp [Memory.read_cons], (hw.2 c (by simp)).2, Memory.read_unlisted fun d hd => ?_⟩
    have := (List.pairwise_cons.1 hw.1).1 d hd
    omega
  have below : ∀ {c : Host.Cell} {m : Memory} {i : Nat}, Memory.wf (c :: m) → i < c.1 →
      Memory.read (c :: m) i = unlistedByte := by
    intro c m i hw hi
    refine Memory.read_unlisted fun d hd => ?_
    rcases List.mem_cons.1 hd with rfl | hd
    · omega
    · have := (List.pairwise_cons.1 hw.1).1 d hd
      omega
  induction m generalizing m' with
  | nil =>
    cases m' with
    | nil => rfl
    | cons c m' =>
      obtain ⟨h1, h2, -⟩ := listed hm'
      exact absurd (h1.symm.trans (h c.1).symm) h2
  | cons c m ih =>
    cases m' with
    | nil =>
      obtain ⟨h1, h2, -⟩ := listed hm
      exact absurd (h1.symm.trans (h c.1)) h2
    | cons d m' =>
      obtain ⟨hc1, hc2, hc3⟩ := listed hm
      obtain ⟨hd1, hd2, hd3⟩ := listed hm'
      have hcd : c.1 = d.1 := by
        rcases Nat.lt_trichotomy c.1 d.1 with hlt | heq | hgt
        · exact absurd (hc1.symm.trans ((h c.1).trans (below hm' hlt))) hc2
        · exact heq
        · exact absurd (hd1.symm.trans ((h d.1).symm.trans (below hm hgt))) hd2
      have hval : c.2 = d.2 := by rw [← hc1, ← hd1, h c.1, hcd]
      have hrest : m = m' := by
        refine ih ⟨(List.pairwise_cons.1 hm.1).2, fun e he => hm.2 e (by simp [he])⟩
          ⟨(List.pairwise_cons.1 hm'.1).2, fun e he => hm'.2 e (by simp [he])⟩ fun j => ?_
        by_cases hj : c.1 = j
        · rw [← hj, hc3, hcd, hd3]
        · have := h j
          rwa [Memory.read_cons, Memory.read_cons, if_neg hj, if_neg (hcd ▸ hj)] at this
      rw [Prod.ext hcd hval, hrest]

/-- `PBufRead` after `PBufWrite`. -/
theorem Block.pbufRead_pbufWrite (b : Block) (i j : Fin 255) (v : Byte) :
    (b.pbufWrite i v).pbufRead j = if j = i then v else b.pbufRead j := by
  simp [Block.pbufRead, Block.pbufWrite, Memory.read_write, Fin.ext_iff]

/-- `PBufWrite` keeps the canonical form. -/
theorem Block.wf_pbufWrite {b : Block} (hb : Memory.wf b.pbuf) (i : Fin 255) (v : Byte) :
    Memory.wf (b.pbufWrite i v).pbuf := Memory.wf_write hb i.isLt v

/-- The buffer's prefix depends on the cells below its end only. -/
theorem Block.pbufPrefix_write (b : Block) (i : Fin 255) (v : Byte) {n : Nat} (h : n ≤ i.val) :
    (b.pbufWrite i v).pbufPrefix n = b.pbufPrefix n := by
  refine List.map_congr_left fun j hj => ?_
  have hj : j < n := List.mem_range.1 hj
  exact (Memory.read_write _ _ _ _).trans (if_neg (by omega))

@[simp] theorem Block.pbufPrefix_length (b : Block) (n : Nat) : (b.pbufPrefix n).length = n := by
  simp [Block.pbufPrefix]

@[simp] theorem Block.pbufPrefix_zero (b : Block) : b.pbufPrefix 0 = [] := rfl

theorem Block.pbufPrefix_succ (b : Block) (n : Nat) :
    b.pbufPrefix (n + 1) = b.pbufPrefix n ++ [Memory.read b.pbuf n] := by
  simp [Block.pbufPrefix, List.range_succ]

end Sys2Proof.Machine
end

