-- ==== Sys2Proof/Laws/PerInstr.lean ====
section
/-! SUPPORT. Per command: its encodings select its own row of the opcode map (30_encoding.md R42), which
says of each operand value that it stays inside the bits the mask leaves free. -/

namespace Sys2Proof.Laws.SelectsOwnRow

/-- Every encoding of the command matches the row of its own mnemonic. -/
def Statement (i : Instr) : Prop := (opcodeRow i.mnemonic).selects (encode i) = true

theorem crcInit : Statement .crcInit := by unfold Statement; decide

theorem crcByte (b : Byte) : Statement (.crcByte b) := by unfold Statement; revert b; decide

theorem crcRead : Statement .crcRead := by unfold Statement; decide

theorem frmClear : Statement .frmClear := by unfold Statement; decide

theorem frmPush (b : Byte) : Statement (.frmPush b) := by unfold Statement; revert b; decide

theorem frmStart : Statement .frmStart := by unfold Statement; decide

theorem frmNext : Statement .frmNext := by unfold Statement; decide

theorem frmStat : Statement .frmStat := by unfold Statement; decide

theorem timBaud (s : BitVec 3) : Statement (.timBaud s) := by unfold Statement; revert s; decide

theorem timMult (k : BitVec 4) : Statement (.timMult k) := by unfold Statement; revert k; decide

theorem timRdmin : Statement .timRdmin := by unfold Statement; decide

theorem timRdint : Statement .timRdint := by unfold Statement; decide

theorem timRdchoice (k : BitVec 4) : Statement (.timRdchoice k) := by
  unfold Statement; revert k; decide

end Sys2Proof.Laws.SelectsOwnRow
end

