-- ==== Sys2Proof/Tests/Slice0.lean ====
section
/-! SUPPORT. The model's own tests. Every expected value is one `spec/95_test_vectors.md` prints (its id
is in the comment) or the encoding of `spec/30_encoding.md` R42; the second half shows, for every
statement with hypotheses, a state and operands that meet them together. -/

namespace Sys2Proof.Tests.Slice0

open Sys2Proof Sys2Proof.Machine

/-! ## Helpers -/

/-- A state with the given block registers, an empty port and no run. -/
def st (crc : CrcWord) (plen : Fin 257) (phase : Phase) (idx : Fin 255)
    (baudSel : BaudSel := .unselected) (mult : Fin 11 := 0) (pbuf : Memory := []) : State :=
  { State.reset with block := ⟨crc, pbuf, plen, phase, idx, baudSel, mult⟩ }

/-- The last response and the block after a step that gives a next state. -/
def after : Result → Option (Response × Block)
  | .next t => t.responses.getLast?.map (·, t.block)
  | .fault _ | .refused _ => none

/-- The state after a step that gives one. -/
def nextState : Result → Option State
  | .next t => some t
  | .fault _ | .refused _ => none

/-- The step on one command word from a state. -/
def word (w : CommandWord) (s : State) : Result := step { s with inputs := [.command w] }

/-- `PBUF[0..2] = 41 42 43`. -/
def abc : Memory := [(0, 0x41), (1, 0x42), (2, 0x43)]

/-! ## Decoding: words written out from 30_encoding.md R42 -/

theorem test_decode_crcInit : decode 0b0001000000000000 = .ok .crcInit := by decide
theorem test_decode_crcByte : decode 0b0010000000110001 = .ok (.crcByte 0x31) := by decide
theorem test_decode_crcRead : decode 0b0011000000000000 = .ok .crcRead := by decide
theorem test_decode_frmClear : decode 0b0100000000000000 = .ok .frmClear := by decide
theorem test_decode_frmPush : decode 0b0101000011111110 = .ok (.frmPush 0xFE) := by decide
theorem test_decode_frmStart : decode 0b0110000000000000 = .ok .frmStart := by decide
theorem test_decode_frmNext : decode 0b0111000000000000 = .ok .frmNext := by decide
theorem test_decode_frmStat : decode 0b1000000000000000 = .ok .frmStat := by decide
theorem test_decode_timBaud : decode 0b1001000000000111 = .ok (.timBaud 7) := by decide
theorem test_decode_timMult : decode 0b1010000000001111 = .ok (.timMult 15) := by decide
theorem test_decode_timRdmin : decode 0b1011000000000000 = .ok .timRdmin := by decide
theorem test_decode_timRdint : decode 0b1100000000000000 = .ok .timRdint := by decide
theorem test_decode_timRdchoice : decode 0b1101000000000111 = .ok (.timRdchoice 7) := by decide

/-- T74 to T84: the illegal words. -/
theorem test_illegal_words :
    [0x0000, 0xFFFF, 0xE000, 0x0FFF, 0x1001, 0x2100, 0x3800, 0x7001, 0x9008, 0xA010, 0xD010].map
      (fun w => (decodeTableWord 16 w).isNone) = List.replicate 11 true := by decide

/-- No two rows of the opcode map overlap: where both masks have a bit, the match values differ. -/
theorem test_rows_do_not_overlap :
    opcodeTable.Pairwise (fun r q => r.matchBits &&& (r.mask &&& q.mask) ≠
      q.matchBits &&& (r.mask &&& q.mask)) := by decide

/-! ## Well-formedness: an ill-formed term for each check (30_encoding.md R47) -/

theorem test_operand_too_large : AsmLine.wellFormed ⟨.crcByte, some 256⟩ = false := by decide
theorem test_operand_missing : AsmLine.wellFormed ⟨.timBaud, none⟩ = false := by decide
theorem test_operand_superfluous : AsmLine.wellFormed ⟨.frmNext, some 0⟩ = false := by decide
theorem test_line_wellFormed : AsmLine.wellFormed ⟨.timMult, some 15⟩ = true := by decide

/-- R47's own example of a comment, with the word of P1. -/
theorem test_assemble_crcByte : assemble "CRC.BYTE 0x31 ; -> OK" = some 0x2031 := by decide

/-- R47: "an operand too large for its field ... is an assembly error and has no encoding". -/
theorem test_assemble_too_large : assemble "CRC.BYTE 256" = none := by decide

/-! ## The functions (95_test_vectors.md 2.1, 2.3, 2.5) -/

/-- T1 to T8. -/
theorem test_crcBit :
    [crcBit 0x0000 false, crcBit 0x0000 true, crcBit 0x8000 false, crcBit 0x8000 true,
     crcBit 0xFFFF false, crcBit 0xFFFF true, crcBit 0x7FFF true, crcBit 0x1021 false] =
    [0x0000, 0x1021, 0x1021, 0x0000, 0xEFDF, 0xFFFE, 0xEFDF, 0x2042] := by decide

/-- V1, T20: the one value the source states. -/
theorem test_crc16_check : crc16 (asciiBytes "123456789") = 0x29B1 := by decide +kernel

/-- T16, T17: the bit order. -/
theorem test_crc16_bit_order : crc16 [0x80] = 0x7078 ∧ crc16 [0x01] = 0xF1D1 := by decide

/-- T30, T32, T39. -/
theorem test_frames :
    frame [] = [0xAA, 0xAA, 0xAA, 0xAA, 0xAA, 0x7E, 0x00, 0xE1, 0xF0] ∧
    frame [0x41, 0x42, 0x43] =
      [0xAA, 0xAA, 0xAA, 0xAA, 0xAA, 0x7E, 0x03, 0x41, 0x42, 0x43, 0x26, 0x88] ∧
    frame [0xAA, 0x7E] =
      [0xAA, 0xAA, 0xAA, 0xAA, 0xAA, 0x7E, 0x02, 0xAA, 0x7E, 0xCF, 0x10] := by decide +kernel

/-- Section 2.5, other parameter values: the bound 231 and arbitrary rates. -/
theorem test_minInterval_parameters :
    [600, 1200, 2400, 4800, 9600, 19200].map (minIntervalFor 231) =
      [8000, 4000, 2000, 1000, 500, 250] ∧
    [1, 5280000, 5280001, 1000000000].map (minIntervalFor 255) = [5280000, 1, 1, 1] := by decide

/-! ## The commands (95_test_vectors.md 2.2, 2.4, 2.5) -/

/-- T23. -/
theorem test_crcInit : after (word 0x1000 (st 0x1234 0 .idle 0)) =
    some (⟨.ok, 0⟩, (st 0xFFFF 0 .idle 0).block) := by decide

/-- T27: `Busy` even though the write would change nothing. -/
theorem test_crcInit_busy : after (word 0x1000 (st 0xFFFF 1 .length 0)) =
    some (⟨.error .busy, 0⟩, (st 0xFFFF 1 .length 0).block) := by decide

/-- T24. -/
theorem test_crcByte : after (word 0x2031 (st 0xFFFF 0 .idle 0)) =
    some (⟨.ok, 0⟩, (st 0xC782 0 .idle 0).block) := by decide

/-- T26. -/
theorem test_crcByte_busy : after (word 0x2032 (st 0xFFFF 1 .preamble 0)) =
    some (⟨.error .busy, 0⟩, (st 0xFFFF 1 .preamble 0).block) := by decide

/-- T28. -/
theorem test_crcRead_midframe : after (word 0x3000 (st 0xF1D1 1 .payload 0)) =
    some (⟨.ok, 0x0000F1D1⟩, (st 0xF1D1 1 .payload 0).block) := by decide

/-- R116: the first response after reset, with the word placed for the very next step. -/
theorem test_withFetchWord : after (step (State.reset.withFetchWord 16 0x3000)) =
    some (⟨.ok, 0x0000FFFF⟩, Block.reset) := by decide

/-- T41: the overflow state is left. -/
theorem test_frmClear : after (word 0x4000 (st 0xFFFF 256 .idle 0)) =
    some (⟨.ok, 0⟩, (st 0xFFFF 0 .idle 0).block) := by decide

/-- T43: the 255th byte is stored. -/
theorem test_frmPush_last : after (word 0x50FE (st 0xFFFF 254 .idle 0)) =
    some (⟨.ok, 0⟩, (st 0xFFFF 255 .idle 0 (pbuf := [(254, 0xFE)])).block) := by decide

/-- T44: the 256th byte is discarded, still `OK`. -/
theorem test_frmPush_discarded : after (word 0x50FF (st 0xFFFF 255 .idle 0)) =
    some (⟨.ok, 0⟩, (st 0xFFFF 256 .idle 0).block) := by decide

/-- T46. -/
theorem test_frmStart_oversize : after (word 0x6000 (st 0xFFFF 256 .idle 0)) =
    some (⟨.error .payloadTooLarge, 0⟩, (st 0xFFFF 256 .idle 0).block) := by decide

/-- T47: `CRC` overwritten. -/
theorem test_frmStart : after (word 0x6000 (st 0x29B1 3 .idle 0)) =
    some (⟨.ok, 0⟩, (st 0xFFFF 3 .preamble 0).block) := by decide

/-- T55: the length enters the CRC. -/
theorem test_frmNext_length : after (word 0x7000 (st 0xFFFF 3 .length 0)) =
    some (⟨.ok, 0x03⟩, (st 0xD193 3 .payload 0).block) := by decide

/-- T57, T59: the last payload byte; the last byte of the frame, with `last` = 1. -/
theorem test_frmNext_ends :
    after (word 0x7000 (st 0xC3B7 3 .payload 2 (pbuf := abc))) =
      some (⟨.ok, 0x43⟩, (st 0x2688 3 .crcHi 0 (pbuf := abc)).block) ∧
    after (word 0x7000 (st 0x2688 3 .crcLo 0)) =
      some (⟨.ok, 0x188⟩, (st 0x2688 3 .idle 0).block) := by decide

/-- T60: `IDX` = 1, `PHASE` = 4, `PLEN` = 3. -/
theorem test_frmStat : after (word 0x8000 (st 0x10B9 3 .payload 1 (pbuf := abc))) =
    some (⟨.ok, 0x00001803⟩, (st 0x10B9 3 .payload 1 (pbuf := abc)).block) := by decide

/-- T66, T71b: "none" cannot be written. -/
theorem test_timBaud :
    after (word 0x9004 (st 0xFFFF 0 .idle 0 .unselected 3)) =
      some (⟨.ok, 0⟩, (st 0xFFFF 0 .idle 0 (.selected 4) 3).block) ∧
    after (word 0x9007 (st 0xFFFF 0 .idle 0 (.selected 0) 3)) =
      some (⟨.error .inputRange, 0⟩, (st 0xFFFF 0 .idle 0 (.selected 0) 3).block) := by decide

/-- T72b, T72c: not clamped to 10. -/
theorem test_timMult :
    after (word 0xA00B (st 0xFFFF 0 .idle 0 (.selected 0) 3)) =
      some (⟨.error .inputRange, 0⟩, (st 0xFFFF 0 .idle 0 (.selected 0) 3).block) ∧
    after (word 0xA00A (st 0xFFFF 0 .idle 0 (.selected 0) 3)) =
      some (⟨.ok, 0⟩, (st 0xFFFF 0 .idle 0 (.selected 0) 10).block) := by decide

/-- T67, T62. -/
theorem test_timRdmin :
    after (word 0xB000 (st 0xFFFF 0 .idle 0 (.selected 4) 3)) =
      some (⟨.ok, 550⟩, (st 0xFFFF 0 .idle 0 (.selected 4) 3).block) ∧
    after (word 0xB000 (st 0xFFFF 0 .idle 0)) =
      some (⟨.error .notConfigured, 0⟩, (st 0xFFFF 0 .idle 0).block) := by decide

/-- 44_timing.md section 1: with `MAX_PAYLOAD_BYTES` = 0 the minimum at 600 symbols per second is 300. -/
theorem test_timRdmin_parameter :
    after (word 0xB000 { st 0xFFFF 0 .idle 0 (.selected 0) 3 with maxPayloadBytes := 0 }) =
      some (⟨.ok, 300⟩, (st 0xFFFF 0 .idle 0 (.selected 0) 3).block) := by decide

/-- T70b; T72c's largest interval. -/
theorem test_timRdint :
    after (word 0xC000 (st 0xFFFF 0 .idle 0 (.selected 0) 3)) =
      some (⟨.ok, 0x6720⟩, (st 0xFFFF 0 .idle 0 (.selected 0) 3).block) ∧
    after (word 0xC000 (st 0xFFFF 0 .idle 0 (.selected 0) 10)) =
      some (⟨.ok, 0x157C0⟩, (st 0xFFFF 0 .idle 0 (.selected 0) 10).block) := by decide

/-- T69; T73a: `InputRange` before `NotConfigured`. -/
theorem test_timRdchoice :
    after (word 0xD007 (st 0xFFFF 0 .idle 0 (.selected 4) 3)) =
      some (⟨.ok, 0xF0A⟩, (st 0xFFFF 0 .idle 0 (.selected 4) 3).block) ∧
    after (word 0xD000 (st 0xFFFF 0 .idle 0)) =
      some (⟨.error .inputRange, 0⟩, (st 0xFFFF 0 .idle 0).block) := by decide

/-- T89: `IllegalCommand` before `Busy`. -/
theorem test_illegal_before_busy : after (word 0x6001 (st 0xFFFF 3 .preamble 0)) =
    some (⟨.error .illegalCommand, 0⟩, (st 0xFFFF 3 .preamble 0).block) := by decide

/-- T90. -/
theorem test_reset_midframe :
    (nextState (step { st 0xC3B7 3 .payload 2 (.selected 4) 3 abc with inputs := [.reset] })).map
      State.block = some (st 0xFFFF 0 .idle 0).block := by decide

/-! ## The host agent (95_test_vectors.md V9 to V11, T101) -/

/-- V11: four sends, the budget at −1000; the fifth evaluation ends the run. -/
theorem test_scheduler_1500 :
    runSession (openSession ⟨5, 1500, []⟩) (List.replicate 4 true) =
      .goesOn ⟨⟨5, 1500, []⟩, -1000, 4⟩ ∧
    runSession (openSession ⟨5, 1500, []⟩) (List.replicate 5 true) = .ends (.completed 4) := by
  decide

/-- V9, V10, T101. -/
theorem test_scheduler_ends :
    runSession (openSession ⟨0, 275, []⟩) [true] = .ends (.completed 0) ∧
    runSession (openSession ⟨5, 1000, []⟩) (List.replicate 6 true) = .ends (.completed 5) ∧
    runSession (openSession ⟨5, 1000, []⟩) [true, false] = .ends (.transportError 1) := by decide

/-- 42_catalog.md R64: the numbering of the selections; V8: cancel issues no command. -/
theorem test_selection :
    selectionNumber (.catalogCommand .readStatusControlWord) = 0 ∧ selectionNumber .cancel = 6 ∧
    selectionScript .ok 4 2 .cancel = [] := by decide

/-- 30_encoding.md R48: `FRAME` reads its frame only if `FRM.START` answered `OK`. -/
theorem test_frame_script :
    expandPseudo (.error .busy) 0 (.frame [0x41]) = [.frmClear, .frmPush 0x41, .frmStart] ∧
    expandPseudo .ok 0 (.frame [0x41]) =
      [.frmClear, .frmPush 0x41, .frmStart] ++ List.replicate 10 .frmNext ∧
    startAnswer (st 0xFFFF 3 .sync 0).block 1 = .error .busy ∧
    startAnswer Block.reset 256 = .error .payloadTooLarge := by decide

/-! ## Witnesses: the hypotheses of the statements can be met -/

/-- An idle block with a payload of three bytes, a rate and a multiple. -/
def loaded : State := st 0x29B1 3 .idle 0 (.selected 4) 3 abc

/-- A block in the middle of the payload of its frame. -/
def sending : State := st 0x10B9 3 .payload 1 (.selected 4) 3 abc

/-- An idle block with more than 255 bytes pushed. -/
def oversize : State := st 0xFFFF 256 .idle 0

/-- The state in each other phase, with the index at its boundary. -/
def inPreamble (idx : Fin 255) : State := st 0xFFFF 3 .preamble idx (pbuf := abc)
def inSync : State := st 0xFFFF 3 .sync 0 (pbuf := abc)
def inLength : State := st 0xFFFF 0 .length 0
def lastPayload : State := st 0xC3B7 3 .payload 2 (pbuf := abc)
def inCrcHi : State := st 0x2688 3 .crcHi 0 (pbuf := abc)
def inCrcLo : State := st 0x2688 3 .crcLo 0 (pbuf := abc)

theorem reachable_reset : Reachable Block.reset := by constructor <;> decide
theorem reachable_loaded : Reachable loaded.block := by constructor <;> decide
theorem reachable_sending : Reachable sending.block := by constructor <;> decide +kernel
theorem reachable_oversize : Reachable oversize.block := by constructor <;> decide
theorem reachable_preamble_first : Reachable (inPreamble 0).block := by constructor <;> decide
theorem reachable_preamble_last : Reachable (inPreamble 4).block := by constructor <;> decide
theorem reachable_sync : Reachable inSync.block := by constructor <;> decide
theorem reachable_length : Reachable inLength.block := by constructor <;> decide
theorem reachable_lastPayload : Reachable lastPayload.block := by constructor <;> decide +kernel
theorem reachable_crcHi : Reachable inCrcHi.block := by constructor <;> decide +kernel
theorem reachable_crcLo : Reachable inCrcLo.block := by constructor <;> decide +kernel

/-- `s` with one command word pending. -/
def pending (s : State) (w : CommandWord) : State := { s with inputs := [.command w] }

theorem witness_StepRunsDecodedCommand :
    (pending loaded 0x2031).inputs = .command 0x2031 :: [] ∧
      decode 0x2031 = .ok (.crcByte 0x31) := by decide

theorem witness_IllegalWordAnswersIllegalCommand :
    (pending sending 0x6001).inputs = .command 0x6001 :: [] ∧
      ∀ r ∈ opcodeTable, r.selects 0x6001 = false := by decide

theorem witness_EveryWordProducesOneResponse :
    Reachable (pending sending 0x7000).block ∧
      (pending sending 0x7000).inputs = .command 0x7000 :: [] ∧ decode 0x7000 = .ok .frmNext :=
  ⟨reachable_sending, rfl, by decide⟩

theorem witness_ErrorPriority_illegal :
    Reachable (pending oversize 0x6001).block ∧ decode 0x6001 = .error (.unusedBitsSet 6 1) :=
  ⟨reachable_oversize, by decide⟩

theorem witness_ErrorPriority_busy :
    Reachable (pending sending 0x6000).block ∧ decode 0x6000 = .ok .frmStart ∧
      disturbsFrame .frmStart = true ∧ sending.block.phase ≠ .idle :=
  ⟨reachable_sending, by decide⟩

theorem witness_ErrorPriority_inputRange :
    Reachable (pending State.reset 0xD00B).block ∧ decode 0xD00B = .ok (.timRdchoice 11) ∧
      operandOutOfRange (.timRdchoice 11) ∧ operandOutOfRange (.timRdchoice 0) ∧
      operandOutOfRange (.timBaud 6) :=
  ⟨reachable_reset, by decide, .inr (by decide), .inl (by decide), show 6 ≤ _ by decide⟩

theorem witness_ErrorPriority_payloadTooLarge :
    Reachable (pending oversize 0x6000).block ∧ decode 0x6000 = .ok .frmStart ∧
      oversize.block.phase = .idle ∧ oversize.block.plen.val = 256 :=
  ⟨reachable_oversize, by decide⟩

theorem witness_ErrorPriority_notConfigured :
    Reachable (pending State.reset 0xC000).block ∧ decode 0xC000 = .ok .timRdint ∧
      needsSelector State.reset.block .timRdint :=
  ⟨reachable_reset, by decide, .inl rfl⟩

theorem witness_ErrorPriority_noFrame :
    Reachable (pending loaded 0x7000).block ∧ decode 0x7000 = .ok .frmNext ∧
      loaded.block.phase = .idle :=
  ⟨reachable_loaded, by decide⟩

theorem witness_ErrorPriority_ok :
    Reachable (pending loaded 0xC000).block ∧ decode 0xC000 = .ok .timRdint ∧
      ¬ needsSelector loaded.block .timRdint ∧ ¬ operandOutOfRange .timRdint :=
  ⟨reachable_loaded, (by decide), (by unfold needsSelector; decide), id⟩

theorem witness_IdlePortHoldsAndMeaninglessInputsAreRefused :
    State.reset.inputs = [] ∧
      { loaded with inputs := [.secondHost 0x3000] }.inputs = .secondHost 0x3000 :: [] ∧
      { loaded with inputs := [.earlyCommand 0x3000] }.inputs = .earlyCommand 0x3000 :: [] ∧
      { loaded with inputs := [.resetMidCommand 0x3000] }.inputs = .resetMidCommand 0x3000 :: [] := by
  decide

theorem witness_StatusBitsAreFunctionsOfState :
    ∃ t, exec .frmNext inCrcLo = .next t ∧
      t.responses = inCrcLo.responses ++ [⟨.ok, 0x188⟩] :=
  ⟨_, rfl, by decide⟩

theorem witness_ResetFromAnyState :
    { sending with inputs := [.reset] }.inputs = .reset :: [] := by decide

theorem witness_FirstResponsesAfterReset :
    { sending with inputs := [.reset] }.inputs = .reset :: [] ∧
      Fresh { Block.reset with pbuf := abc } := by
  refine ⟨by decide, ?_⟩
  unfold Fresh
  decide

theorem witness_OnlyResetUnselects :
    (∀ rest, (pending loaded 0x9000).inputs ≠ .reset :: rest) ∧
      (nextState (step (pending loaded 0x9000))).isSome = true ∧
      loaded.block.baudSel ≠ .unselected ∧ loaded.block.mult ≠ 0 :=
  ⟨fun _ => by simp [pending], by decide, by decide, by decide⟩

/-- For `CRC.INIT`, `CRC.BYTE`, `FRM.CLEAR` and the program of R56: an idle and a busy block. -/
theorem witness_idle_and_busy : loaded.block.phase = .idle ∧ sending.block.phase ≠ .idle := by decide

theorem witness_FrmPushAppendsOneByte :
    (st 0 254 .idle 0).block.phase = .idle ∧ (st 0 254 .idle 0).block.plen.val ≤ 254 ∧
      (st 0 0 .idle 0).block.plen.val ≤ 254 ∧ 255 ≤ (st 0 255 .idle 0).block.plen.val ∧
      255 ≤ oversize.block.plen.val ∧ oversize.block.phase = .idle ∧
      sending.block.phase ≠ .idle := by decide

theorem witness_FrmStartBeginsFrame :
    (st 0 255 .idle 0).block.phase = .idle ∧ (st 0 255 .idle 0).block.plen.val ≤ 255 ∧
      oversize.block.phase = .idle ∧ oversize.block.plen.val = 256 ∧
      (inPreamble 0).block.phase ≠ .idle := by decide

/-- One reachable state for each clause of R70, with the index at its boundaries. -/
theorem witness_FrmNextReturnsNextByte :
    (Reachable loaded.block ∧ loaded.block.phase = .idle) ∧
    (Reachable (inPreamble 0).block ∧ (inPreamble 0).block.phase = .preamble ∧
      (inPreamble 0).block.idx.val < 4) ∧
    (Reachable (inPreamble 4).block ∧ (inPreamble 4).block.phase = .preamble ∧
      (inPreamble 4).block.idx.val = 4) ∧
    (Reachable inSync.block ∧ inSync.block.phase = .sync) ∧
    (Reachable inLength.block ∧ inLength.block.phase = .length) ∧
    (Reachable lastPayload.block ∧ lastPayload.block.phase = .payload ∧
      lastPayload.block.idx.val + 1 = lastPayload.block.plen.val) ∧
    (Reachable sending.block ∧ sending.block.phase = .payload ∧
      sending.block.idx.val + 1 ≠ sending.block.plen.val) ∧
    (Reachable inCrcHi.block ∧ inCrcHi.block.phase = .crcHi) ∧
    (Reachable inCrcLo.block ∧ inCrcLo.block.phase = .crcLo) :=
  ⟨⟨reachable_loaded, by decide⟩, ⟨reachable_preamble_first, by decide⟩,
    ⟨reachable_preamble_last, by decide⟩, ⟨reachable_sync, by decide⟩,
    ⟨reachable_length, by decide⟩, ⟨reachable_lastPayload, by decide⟩,
    ⟨reachable_sending, by decide⟩, ⟨reachable_crcHi, by decide⟩, ⟨reachable_crcLo, by decide⟩⟩

/-- For the statements about `frame(p)` and `buildFrame`: the empty, the largest and an oversize
payload. -/
theorem witness_payload_lengths :
    ([] : List Byte).length ≤ 255 ∧ (List.replicate 255 (0xFF : Byte)).length ≤ 255 ∧
      255 < (List.replicate 256 (0xFF : Byte)).length := by
  simp only [List.length_replicate, List.length_nil]; decide

/-- R72: a program with commands of every bystander kind between the frame's own. -/
theorem witness_FramingTheorem :
    loaded.block.phase = .idle ∧ [(0x41 : Byte)].length ≤ 255 ∧
      ([Instr.timBaud 7, .frmClear, .crcRead, .frmPush 0x41, .frmStat, .frmStart, .timRdint] ++
          List.replicate 10 Instr.frmNext ++ [Instr.timRdmin, .timMult 3, .timRdchoice 5]).filter
          (fun i => !bystander i) =
        .frmClear :: [(0x41 : Byte)].map .frmPush ++
          .frmStart :: List.replicate (9 + [(0x41 : Byte)].length) .frmNext := by decide

theorem witness_StartedFrameIsThatOfTheBuffer :
    Idle loaded.block ∧ loaded.block.plen.val ≤ 255 :=
  ⟨⟨reachable_loaded, by decide⟩, by decide⟩

theorem witness_OversizePayloadEmitsNothing :
    loaded.block.phase = .idle ∧ 256 ≤ (List.replicate 256 (0x00 : Byte)).length ∧
      Instr.frmClear ∉ [Instr.frmPush 0, .frmStart, .crcInit, .frmNext] :=
  ⟨by decide, by rw [List.length_replicate], by decide⟩

theorem witness_BusyFrameIsReadToItsEnd :
    (Reachable (inPreamble 0).block ∧ (inPreamble 0).block.phase ≠ .idle) ∧
      (Reachable inCrcLo.block ∧ inCrcLo.block.phase ≠ .idle) :=
  ⟨⟨reachable_preamble_first, by decide⟩, ⟨reachable_crcLo, by decide⟩⟩

theorem witness_FrameInProgressIsProtected :
    (pending sending 0x5000).inputs = .command 0x5000 :: [] ∧ sending.block.phase ≠ .idle ∧
      (nextState (step (pending sending 0x5000))).isSome = true ∧
      decode 0x5000 ≠ .ok .frmNext := by decide

theorem witness_minInterval : 0 < 600 ∧ 600 ≤ 1200 ∧ 0 < 1 ∧ (0 : Fin 6) < 5 := by decide

theorem witness_TimBaudSelectsRate :
    (0 : BitVec 3).toNat ≤ 5 ∧ (5 : BitVec 3).toNat ≤ 5 ∧ 6 ≤ (6 : BitVec 3).toNat ∧
      6 ≤ (7 : BitVec 3).toNat := by decide

theorem witness_multipliers :
    1 ≤ (1 : BitVec 4).toNat ∧ (10 : BitVec 4).toNat ≤ 10 ∧ (0 : BitVec 4).toNat = 0 ∧
      11 ≤ (11 : BitVec 4).toNat ∧ 11 ≤ (15 : BitVec 4).toNat := by decide

/-- For the TIM read commands: selected and not selected. -/
theorem witness_selectors :
    loaded.block.baudSel = .selected 4 ∧ loaded.block.mult.val ≠ 0 ∧
      State.reset.block.baudSel = .unselected ∧ State.reset.block.mult.val = 0 := by decide

theorem witness_CrcRegisterFrame :
    (nextState (exec .frmNext (inPreamble 0))).isSome = true ∧
      (inPreamble 0).block.phase ≠ .length ∧ (inPreamble 0).block.phase ≠ .payload := by decide

theorem witness_PayloadBufferFrame :
    (nextState (exec (.frmPush 7) loaded)).isSome = true ∧ pushIndex loaded.block ≠ some 0 ∧
      (nextState (exec .frmStart loaded)).isSome = true := by decide

/-- For the frames of the sequencer, of the selectors and of the read commands. -/
theorem witness_frames :
    (nextState (exec .crcRead sending)).isSome = true ∧
      (nextState (exec (.timBaud 2) sending)).isSome = true ∧
      (nextState (exec (.timRdchoice 2) sending)).isSome = true := by decide

theorem inv_sending : Inv sending :=
  ⟨reachable_sending, by decide, fun _ h => by cases h⟩

/-- A state with a run under way meets the invariant, session included. -/
def running : State :=
  { loaded with
    inputs := [.loop true], host := { HostSide.reset with session := some (openSession ⟨5, 1500, []⟩) } }

theorem inv_running : Inv running :=
  ⟨reachable_loaded, by decide, fun σ h => by
    cases h
    constructor <;> decide⟩

theorem witness_EveryStepKeepsInvariant :
    Inv running ∧ (nextState (step running)).isSome = true ∧
      Inv (pending sending 0x7000) ∧ (nextState (step (pending sending 0x7000))).isSome = true :=
  ⟨inv_running, by decide, ⟨reachable_sending, by decide, fun _ h => by cases h⟩, by decide⟩

theorem witness_InvariantHoldsOnEveryRun :
    (nextState (Sys2Proof.core.run 3 { State.reset with
      inputs := [.command 0x6000, .command 0x7000, .reset] })).isSome = true := by decide

theorem witness_UnreadCellsAreUnobservable :
    Reachable (pending sending 0x7000).block ∧
    Reachable { sending.block with pbuf := abc ++ [(200, 0x55)] } ∧
    sending.block.agree { sending.block with pbuf := abc ++ [(200, 0x55)] } ∧
    sending.maxPayloadBytes = loaded.maxPayloadBytes ∧
    (nextState (step (pending sending 0x7000))).isSome = true := by
  refine ⟨reachable_sending, by constructor <;> decide +kernel, ?_, rfl, by decide⟩
  unfold Block.agree
  decide +kernel

/-- The end of an aborted preparation: a response that is not `OK`. -/
theorem witness_selectionRun_error :
    (⟨.error .busy, 0⟩ : Response) ∈ [(⟨.error .busy, 0⟩ : Response)] ∧
      (Status.error .busy) ≠ .ok := by decide

theorem witness_RunSendsPacketCountFrames :
    (0 : Int) ≤ 300 ∧ (300 : Int) ≤ 300 ∧ (1 : Int) ≤ 1 ∧ loaded.host.session = none := by decide

theorem witness_FailedSendEndsRun :
    Plan.valid ⟨5, 1500, []⟩ = true ∧ 3 < packetCount ⟨5, 1500, []⟩ ∧
      running.host.session = some (openSession ⟨5, 1500, []⟩) := by decide

theorem witness_InvalidPlanIsRejected :
    { loaded with inputs := [.beginRun 301 1000 []] }.inputs = .beginRun 301 1000 [] :: [] ∧
      loaded.host.session = none ∧ (300 : Int) < 301 ∧ (-1 : Int) < 0 ∧ (0 : Int) < 1 := by decide

theorem witness_HostReadsPlanFromBlock :
    Idle loaded.block ∧ [(0x41 : Byte)].length ≤ 255 ∧ (4 : Fin 6).val = (4 : BitVec 3).toNat ∧
      1 ≤ (2 : BitVec 4).toNat ∧ (2 : BitVec 4).toNat ≤ 10 :=
  ⟨⟨reachable_loaded, by decide⟩, by decide⟩

end Sys2Proof.Tests.Slice0
end

section
/-! Which words select which command (30_encoding.md R42). A word decodes to a command exactly when it is
the command's encoding; the mask takes an encoding apart into the match value and the operand. -/

namespace Sys2Proof

/-- A statement about every command, written out over the thirteen rows of the opcode map, so that a
decidable one can be evaluated at each operand. -/
theorem Instr.forall_iff {p : Instr → Prop} :
    (∀ i, p i) ↔ p .crcInit ∧ (∀ b, p (.crcByte b)) ∧ p .crcRead ∧ p .frmClear ∧
      (∀ b, p (.frmPush b)) ∧ p .frmStart ∧ p .frmNext ∧ p .frmStat ∧ (∀ s, p (.timBaud s)) ∧
      (∀ k, p (.timMult k)) ∧ p .timRdmin ∧ p .timRdint ∧ ∀ k, p (.timRdchoice k) := by
  constructor
  · intro h
    simp only [h, implies_true, and_self]
  · rintro ⟨_, _, _, _, _, _, _, _, _, _, _, _, _⟩ i
    cases i <;> simp only [*]

/-! ### Decoding is the inverse of encoding -/

/-- `cmd = op ‖ arg` (R40). -/
theorem toNat_word (w : CommandWord) :
    w.toNat = (opField w).toNat * 4096 + (argField w).toNat := by
  simp only [opField, argField, BitVec.extractLsb'_toNat, Nat.shiftRight_eq_div_pow]
  omega

theorem noOperand_eq_ok {w : CommandWord} {i j : Instr} (h : noOperand w i = .ok j) :
    j = i ∧ (argField w).toNat = 0 := by
  unfold noOperand at h
  split at h
  case isTrue harg => exact ⟨by cases h; rfl, by simp [harg]⟩
  case isFalse => cases h

/-- A decoded operand is the whole of `arg`: the bits above it are 0 (R42). -/
theorem operandField_map_eq_ok {n : Nat} {w : CommandWord} {f : BitVec n → Instr} {i : Instr}
    (h : (operandField n w).map f = .ok i) :
    ∃ x : BitVec n, i = f x ∧ (argField w).toNat = x.toNat := by
  unfold operandField at h
  split at h
  case isTrue hlt =>
    exact ⟨(argField w).setWidth n, by cases h; rfl, by simp [Nat.mod_eq_of_lt hlt]⟩
  case isFalse => cases h

/-- The encoder's word, field by field: `op ‖ zext_12(operand)` (R47). -/
theorem toNat_encode (i : Instr) :
    (encode i).toNat = (opcodeRow i.mnemonic).matchBits.toNat + (operandBitsOf i).toNat := by
  revert i
  rw [Instr.forall_iff]
  decide

theorem decode_encode (i : Instr) : decode (encode i) = .ok i := by
  revert i
  rw [Instr.forall_iff]
  decide

theorem encode_of_decode_eq_ok {w : CommandWord} {i : Instr} (h : decode w = .ok i) :
    encode i = w := by
  apply BitVec.eq_of_toNat_eq
  rw [toNat_encode, toNat_word w]
  unfold decode at h
  split at h
  case h_14 => cases h
  case h_2 hop | h_5 hop | h_9 hop | h_10 hop | h_13 hop =>
    obtain ⟨x, rfl, harg⟩ := operandField_map_eq_ok h
    simp only [hop, harg, opcodeRow, Instr.mnemonic, operandBitsOf, BitVec.toNat_setWidth]
    exact congrArg _ (Nat.mod_eq_of_lt (by omega))
  all_goals
    rename_i hop
    obtain ⟨rfl, harg⟩ := noOperand_eq_ok h
    rw [hop, harg]
    rfl

theorem decode_eq_ok_iff {w : CommandWord} {i : Instr} : decode w = .ok i ↔ encode i = w :=
  ⟨encode_of_decode_eq_ok, fun h => h ▸ decode_encode i⟩

/-! ### Taking an encoding apart by its mask -/

/-- A word put together from fields under and outside a mask is taken apart by the mask. -/
theorem or_eq_iff_and {n : Nat} {m o mask w : BitVec n} (hm : m &&& mask = m)
    (ho : o &&& mask = 0) : m ||| o = w ↔ w &&& mask = m ∧ o = w &&& ~~~mask := by
  have hm' (i : Nat) (hi : i < n) : (m[i] && mask[i]) = m[i] := by rw [← BitVec.getElem_and, hm]
  have ho' (i : Nat) (hi : i < n) : (o[i] && mask[i]) = false := by
    simp [← BitVec.getElem_and, ho]
  constructor
  · rintro rfl
    constructor
    · ext i hi
      simp [Bool.and_or_distrib_right, hm' i hi, ho' i hi]
    · ext i hi
      have hm := hm' i hi
      have ho := ho' i hi
      simp only [BitVec.getElem_and, BitVec.getElem_or, BitVec.getElem_not]
      grind
  · rintro ⟨rfl, rfl⟩
    ext i hi
    simp [← Bool.and_or_distrib_left]

/-- The masks of the opcode map (R42): the match value lies under its mask. -/
theorem matchBits_and_mask (m : Mnemonic) :
    (opcodeRow m).matchBits &&& (opcodeRow m).mask = (opcodeRow m).matchBits := by
  cases m <;> rfl

/-- The mask leaves exactly the operand field free. -/
theorem not_mask_eq (m : Mnemonic) :
    ~~~(opcodeRow m).mask = BitVec.ofNat 16 (2 ^ m.operandBits - 1) := by
  cases m <;> decide

/-- The operand lies in the bits that the mask leaves free. -/
theorem operandBitsOf_and_mask (i : Instr) :
    operandBitsOf i &&& (opcodeRow i.mnemonic).mask = 0 := by
  revert i
  rw [Instr.forall_iff]
  decide

/-- The selection rule of R42, for every row at once. -/
theorem decode_eq_ok_iff_mask {w : CommandWord} {i : Instr} :
    decode w = .ok i ↔ w &&& (opcodeRow i.mnemonic).mask = (opcodeRow i.mnemonic).matchBits ∧
      operandBitsOf i = w &&& ~~~(opcodeRow i.mnemonic).mask :=
  decode_eq_ok_iff.trans (or_eq_iff_and (matchBits_and_mask _) (operandBitsOf_and_mask _))

/-- The low `n` bits of a word, as a mask and as an extracted operand. -/
theorem setWidth_eq_and_iff {n : Nat} (hn : n ≤ 16) {x : BitVec n} {w : CommandWord} :
    x.setWidth 16 = w &&& BitVec.ofNat 16 (2 ^ n - 1) ↔ x = w.extractLsb' 0 n := by
  have hpow : 2 ^ n ≤ 2 ^ 16 := Nat.pow_le_pow_right (by decide) hn
  have hx := x.isLt
  rw [← BitVec.toNat_inj, ← BitVec.toNat_inj, BitVec.toNat_setWidth, BitVec.toNat_and,
    BitVec.toNat_ofNat, BitVec.extractLsb'_toNat, Nat.mod_eq_of_lt (by omega),
    Nat.mod_eq_of_lt (by omega), Nat.and_two_pow_sub_one_eq_mod, Nat.shiftRight_zero]

/-! ### The rows without and with an operand -/

theorem decode_eq_ok_iff_of_noOperand {w : CommandWord} {i : Instr}
    (ho : operandBitsOf i = 0) (hmask : (opcodeRow i.mnemonic).mask = 0xFFFF) :
    decode w = .ok i ↔ w &&& 0xFFFF = (opcodeRow i.mnemonic).matchBits := by
  rw [decode_eq_ok_iff_mask, ho, hmask]
  simp

theorem decode_eq_ok_iff_of_operand {n : Nat} {x : BitVec n} {w : CommandWord} {i : Instr}
    (hn : i.mnemonic.operandBits = n) (hle : n ≤ 16) (ho : operandBitsOf i = x.setWidth 16) :
    decode w = .ok i ↔ w &&& (opcodeRow i.mnemonic).mask = (opcodeRow i.mnemonic).matchBits ∧
      x = w.extractLsb' 0 n := by
  rw [decode_eq_ok_iff_mask, ho, not_mask_eq, hn, setWidth_eq_and_iff hle]

/-- Settles O2: the selection rule at each of the thirteen rows. -/
theorem wordSelectsCommandByMaskAndMatch : Obligations.WordSelectsCommandByMaskAndMatch := by
  intro w
  refine ⟨?_, fun b => ?_, ?_, ?_, fun b => ?_, ?_, ?_, ?_, fun s => ?_, fun k => ?_, ?_, ?_,
    fun k => ?_⟩
  case refine_2 | refine_5 | refine_9 | refine_10 | refine_13 =>
    exact decode_eq_ok_iff_of_operand rfl (by decide) rfl
  all_goals exact decode_eq_ok_iff_of_noOperand rfl rfl

end Sys2Proof
end

section
/-! One response per command word (30_encoding.md R41): the one shape that the answer of every command
has, carried through the shared operations and then through the thirteen commands. -/

namespace Sys2Proof.Machine

/-- What a command's answer in `s` may be (R41, 60_exceptions.md R107): `OK` after a change of the block
alone, with data other than 0 only if `gives` holds; or an error, taken by `raise`. -/
def AnswersOnce (gives : Prop) (s : State) (k : Result) : Prop :=
  (∃ b d, k = .next { s with block := b, responses := s.responses ++ [⟨.ok, d⟩] } ∧ (d ≠ 0 → gives)) ∨
  ∃ e, k = raise e s

/-- The commands whose rule gives the response data: the five reads and `FRM.NEXT` (R41, R46). -/
def givesData : Instr → Bool
  | .crcRead | .frmNext | .frmStat | .timRdmin | .timRdint | .timRdchoice _ => true
  | .crcInit | .crcByte _ | .frmClear | .frmPush _ | .frmStart | .timBaud _ | .timMult _ => false

theorem givesData_cases {i : Instr} (h : givesData i = true) :
    i = .crcRead ∨ i = .frmNext ∨ i = .frmStat ∨ i = .timRdmin ∨ i = .timRdint ∨
      ∃ k, i = .timRdchoice k := by
  cases i <;> simp [givesData] at h ⊢

section
variable {gives : Prop} {s : State}

theorem answersOnce_raise (e : ErrorCause) : AnswersOnce gives s (raise e s) := .inr ⟨e, rfl⟩

theorem answersOnce_respondOk_zero (b : Block) :
    AnswersOnce gives s (respondOk 0 { s with block := b }) := .inl ⟨b, 0, rfl, fun h => absurd rfl h⟩

theorem answersOnce_respondOk (hg : gives) (b : Block) (d : ResponseData) :
    AnswersOnce gives s (respondOk d { s with block := b }) := .inl ⟨b, d, rfl, fun _ => hg⟩

theorem answersOnce_whenIdle {k : Result} (h : AnswersOnce gives s k) :
    AnswersOnce gives s (whenIdle s k) := by
  unfold whenIdle
  split
  · exact h
  · exact answersOnce_raise _

theorem answersOnce_respondInterval (hg : gives) (v : Option Nat) :
    AnswersOnce gives s (respondInterval v s) := by
  cases v with
  | some n => exact answersOnce_respondOk hg _ _
  | none => exact answersOnce_raise _

/-- Below the last index the advance does not leave 0 to 254 (10_state.md R28 (b)). -/
theorem answersOnce_advanceIdx (hg : gives) (out : Byte) (b : Block) (h : b.idx.val + 1 < 255) :
    AnswersOnce gives s (advanceIdx out { s with block := b }) := by
  simp only [advanceIdx, idxSucc_of_lt h]
  exact answersOnce_respondOk hg _ _

theorem answersOnce_execFrmNext (hg : gives) (hr : Reachable s.block) :
    AnswersOnce gives s (execFrmNext s) := by
  unfold execFrmNext
  split
  case h_1 => exact answersOnce_raise _
  case h_2 hp =>
    have hidx := hr.preambleIdx hp
    unfold nextPreamble
    split
    · exact answersOnce_respondOk hg _ _
    · exact answersOnce_advanceIdx hg _ s.block (by omega)
  case h_5 hp =>
    have hidx := hr.payloadIdx hp
    have hplen := hr.busyPlen (by simp [hp])
    simp only [nextPayload]
    split
    · exact answersOnce_respondOk hg _ _
    · exact answersOnce_advanceIdx hg _ _ (by simp; omega)
  all_goals exact answersOnce_respondOk hg _ _

theorem answersOnce_exec (hr : Reachable s.block) (i : Instr) :
    AnswersOnce (givesData i = true) s (exec i s) := by
  cases i with
  | crcInit | crcByte _ | frmClear => exact answersOnce_whenIdle (answersOnce_respondOk_zero _)
  | frmPush b =>
    refine answersOnce_whenIdle ?_
    split <;> exact answersOnce_respondOk_zero _
  | frmStart =>
    refine answersOnce_whenIdle ?_
    split
    · exact answersOnce_raise _
    · exact answersOnce_respondOk_zero _
  | crcRead | frmStat => exact answersOnce_respondOk rfl _ _
  | frmNext => exact answersOnce_execFrmNext rfl hr
  | timBaud sel =>
    simp only [exec, execTimBaud]
    split
    · exact answersOnce_respondOk_zero _
    · exact answersOnce_raise _
  | timMult k =>
    simp only [exec, execTimMult]
    split
    · exact answersOnce_respondOk_zero _
    · exact answersOnce_raise _
  | timRdmin | timRdint => exact answersOnce_respondInterval rfl _
  | timRdchoice k =>
    simp only [exec, execTimRdchoice]
    split
    · exact answersOnce_respondInterval rfl _
    · exact answersOnce_raise _

theorem answersOnce_runCommand (hr : Reachable s.block) (w : CommandWord) :
    AnswersOnce (∃ i, decode w = .ok i ∧ givesData i = true) s (runCommand w s) := by
  unfold runCommand
  split
  case h_1 i hi =>
    simpa [hi] using answersOnce_exec hr i
  case h_2 => exact answersOnce_raise _

end

/-- Settles O8: a word on the port is run by `runCommand`, whose answer is of the one shape. -/
theorem everyWordProducesOneResponse : Obligations.EveryWordProducesOneResponse := by
  intro s w rest hr hin
  rw [step_of_inputs hin]
  obtain ⟨b, d, hk, hgives⟩ | ⟨e, hk⟩ :=
    answersOnce_runCommand (s := { s with inputs := rest }) hr w
  · refine ⟨_, ⟨.ok, d⟩, hk, rfl, rfl, rfl, fun h => absurd rfl h, fun hd => ?_⟩
    obtain ⟨i, hi, hg⟩ := hgives hd
    simpa [hi] using givesData_cases hg
  · exact ⟨_, ⟨.error e, 0⟩, hk, rfl, rfl, rfl, fun _ => ⟨rfl, rfl⟩, fun hd => absurd rfl hd⟩

end Sys2Proof.Machine
end

section
/-! The CRC functions (41_crc.md R51, R52, R59). One law carries both the second form of `crc_byte` and the
residue: what is XORed into the register acts as an input, its top bits one by one. -/

namespace Sys2Proof.Machine

/-- The bit step is linear (R51): the top bit of what is XORed into the register acts as an input bit,
and the rest shifts. -/
theorem crcBit_xor (c x : CrcWord) (d : Bool) :
    crcBit (c ^^^ x) d = crcBit c (x.getMsbD 0 ^^ d) ^^^ x <<< 1 := by
  have hfeedback : ((c ^^^ x).getMsbD 0 ^^ d) = (c.getMsbD 0 ^^ (x.getMsbD 0 ^^ d)) := by simp
  unfold crcBit
  rw [hfeedback, BitVec.shiftLeft_xor_distrib]
  split
  · ac_rfl
  · rfl

/-- `n` steps with input bit 0 on a register with `x` XORed in are `n` steps on the top bits of `x`. -/
theorem foldl_crcBit_replicate_false_xor (n : Nat) (c x : CrcWord) :
    (List.replicate n false).foldl crcBit (c ^^^ x) =
      ((List.range n).map x.getMsbD).foldl crcBit c ^^^ x <<< n := by
  induction n with
  | zero => simp
  | succ n ih =>
    have htop : (x <<< n).getMsbD 0 = x.getMsbD n := by simp
    rw [List.replicate_succ', List.range_succ, List.map_append, List.foldl_append,
      List.foldl_append, ih, List.foldl_cons, List.foldl_nil, crcBit_xor, htop, Bool.xor_false,
      ← BitVec.shiftLeft_add]
    rfl

/-- Feeding the upper byte of `x` is eight steps with input bit 0 on the register with `x` XORed in, up
to the lower byte of `x`, which has only been shifted. -/
theorem crcByte_highByte (c x : CrcWord) :
    crcByte c (highByte x) =
      (List.replicate 8 false).foldl crcBit (c ^^^ x) ^^^ x <<< 8 := by
  have hbits : crcByte c (highByte x) = ((List.range 8).map x.getMsbD).foldl crcBit c := by
    simp [crcByte, highByte, List.range_succ, BitVec.getMsbD]
  rw [foldl_crcBit_replicate_false_xor, hbits, BitVec.xor_assoc, BitVec.xor_self, BitVec.xor_zero]

/-- A register fed its own upper byte has no feedback: it only shifts (R59). -/
theorem crcByte_highByte_self (c : CrcWord) : crcByte c (highByte c) = c <<< 8 := by
  rw [crcByte_highByte, BitVec.xor_self]
  exact BitVec.zero_xor

theorem highByte_shiftLeft_eight (c : CrcWord) : highByte (c <<< 8) = lowByte c := by
  ext i hi
  have h8 : 8 + i < 16 := by omega
  have h16 : i < 16 := by omega
  simp [highByte, lowByte, h8, BitVec.getLsbD_eq_getElem h16]

theorem lowByte_setWidth (b : Byte) : lowByte (b.setWidth 16) = b := by
  rw [lowByte, ← BitVec.setWidth_eq_extractLsb' (by decide),
    BitVec.setWidth_setWidth_of_le _ (by decide), BitVec.setWidth_eq]

theorem shiftLeft_eight_shiftLeft_eight (c : CrcWord) : (c <<< 8) <<< 8 = 0 := by
  rw [← BitVec.shiftLeft_add]
  exact BitVec.shiftLeft_eq_zero (Nat.le_refl 16)

theorem crcFold_bigEndianU16_self (c : CrcWord) : crcFold c (bigEndianU16 c) = 0 := by
  rw [bigEndianU16, crcFold_cons, crcFold_cons, crcFold_nil, crcByte_highByte_self,
    ← highByte_shiftLeft_eight, crcByte_highByte_self, shiftLeft_eight_shiftLeft_eight]

theorem crc16_append_bigEndianU16_self (bs : List Byte) :
    crc16 (bs ++ bigEndianU16 (crc16 bs)) = 0 := by
  rw [crc16_eq_fold, crcFold_append, crc16_eq_fold, crcFold_bigEndianU16_self]

/-- From its length byte on, a frame is what its checksum covers, and the checksum (43_framer.md R65). -/
theorem frame_drop_header (p : List Byte) :
    (frame p).drop 6 = lengthPrefixed p ++ bigEndianU16 (crc16 (lengthPrefixed p)) := by
  rw [frame, List.append_assoc]
  exact List.drop_left' rfl

/-- Settles O17: the first form is the definition; for the second, the byte is the upper byte of what is
XORed in, and the lower byte is 0. -/
theorem crcByteHasTwoEqualForms : Obligations.CrcByteHasTwoEqualForms := by
  intro c b
  refine ⟨rfl, ?_⟩
  have h := crcByte_highByte c (b.setWidth 16 <<< 8)
  rw [highByte_shiftLeft_eight, lowByte_setWidth, shiftLeft_eight_shiftLeft_eight] at h
  exact h.trans BitVec.xor_zero

/-- Settles O18: the last byte is the last step, and the source's check value is evaluated. -/
theorem crc16StartsFromInit : Obligations.Crc16StartsFromInit := by
  refine ⟨rfl, fun bs b => ?_, by decide +kernel⟩
  rw [crc16_concat]
  exact BitVec.xor_zero.symm

/-- Settles O19: a frame from its length byte on is a sequence followed by its own CRC. -/
theorem crcResidueIsZero : Obligations.CrcResidueIsZero :=
  ⟨crc16_append_bigEndianU16_self, fun p _ => by
    rw [frame_drop_header]
    exact crc16_append_bigEndianU16_self _⟩

end Sys2Proof.Machine
end

section
/-! The run of a finite sequence of commands (70_reset_and_hazards.md R126), one command at a time. -/

namespace Sys2Proof.Machine

theorem runCommand_encode (i : Instr) (s : State) : runCommand (encode i) s = exec i s := by
  simp only [runCommand, decode_encode]

theorem step_issue_cons (s : State) (i : Instr) (is : List Instr) :
    step (s.issue (i :: is)) = exec i (s.issue is) := runCommand_encode i (s.issue is)

/-- What a run does first: its first command, with the others pending. -/
theorem State.run_cons {s t : State} {i : Instr} {is : List Instr}
    (h : exec i (s.issue is) = .next (t.issue is)) : s.run (i :: is) = t.run is := by
  have hstep : core.step (s.issue (i :: is)) = .next (t.issue is) := (step_issue_cons s i is).trans h
  show core.run (is.length + 1) (s.issue (i :: is)) = core.run is.length (t.issue is)
  simp only [Host.Core.run, hstep]

end Sys2Proof.Machine
end

section
/-! The three CRC commands (41_crc.md R53 to R56), alone and in a run. -/

namespace Sys2Proof.Machine

/-- What `CRC.INIT` makes of `s` in `IDLE` (`exec_crcInit_of_idle`). -/
def State.initCrc (s : State) : State :=
  { s.setCrc 0xFFFF with responses := s.responses ++ [⟨.ok, 0⟩] }

/-- What `CRC.BYTE` of each byte makes of `s` in `IDLE` (`run_map_crcByte_append`). -/
def State.feedCrc (s : State) (bs : List Byte) : State :=
  { s.setCrc (crcFold s.block.crc bs) with
    responses := s.responses ++ List.replicate bs.length ⟨.ok, 0⟩ }

/-- What `CRC.READ` makes of `s` (`exec_crcRead`). -/
def State.readCrc (s : State) : State :=
  { s with responses := s.responses ++ [⟨.ok, (crcResult s.block.crc).setWidth 32⟩] }

variable {s : State}

theorem exec_crcInit_of_idle (h : s.block.phase = .idle) : exec .crcInit s = .next s.initCrc :=
  whenIdle_idle h _

theorem exec_crcByte_of_idle (h : s.block.phase = .idle) (b : Byte) :
    exec (.crcByte b) s = .next (s.feedCrc [b]) := whenIdle_idle h _

theorem exec_crcRead (s : State) : exec .crcRead s = .next s.readCrc := rfl

/-- Settles O20: the guard of R104 on either side. -/
theorem crcInitStartsNewComputation : Obligations.CrcInitStartsNewComputation :=
  ⟨rfl, fun _ => ⟨exec_crcInit_of_idle, fun h => whenIdle_busy h _⟩⟩

/-- Settles O21: the guard of R104 on either side. -/
theorem crcByteFeedsOneByte : Obligations.CrcByteFeedsOneByte :=
  ⟨fun _ => rfl, fun b _ => ⟨fun h => exec_crcByte_of_idle h b, fun h => whenIdle_busy h _⟩⟩

/-- Settles O22: there is no guard. -/
theorem crcReadReturnsRegister : Obligations.CrcReadReturnsRegister := ⟨rfl, exec_crcRead⟩

@[simp] theorem State.feedCrc_nil (s : State) : s.feedCrc [] = s := by
  simp [State.feedCrc, State.setCrc]

theorem State.feedCrc_cons (s : State) (b : Byte) (bs : List Byte) :
    s.feedCrc (b :: bs) = (s.feedCrc [b]).feedCrc bs := by
  simp [State.feedCrc, State.setCrc, List.replicate_succ]

/-- A run may feed any number of bytes before its other commands. -/
theorem run_map_crcByte_append (h : s.block.phase = .idle) (bs : List Byte) (is : List Instr) :
    s.run (bs.map .crcByte ++ is) = (s.feedCrc bs).run is := by
  induction bs generalizing s with
  | nil => rw [State.feedCrc_nil, List.map_nil, List.nil_append]
  | cons b bs ih =>
    calc s.run (.crcByte b :: (bs.map .crcByte ++ is))
      _ = (s.feedCrc [b]).run (bs.map .crcByte ++ is) :=
        State.run_cons (exec_crcByte_of_idle (s := s.issue _) h b)
      _ = ((s.feedCrc [b]).feedCrc bs).run is := ih h
      _ = (s.feedCrc (b :: bs)).run is := by rw [← State.feedCrc_cons]

theorem run_crc16Script (h : s.block.phase = .idle) (bs : List Byte) :
    s.run (crc16Script bs) = .next ((s.initCrc.feedCrc bs).readCrc.issue []) :=
  calc s.run (.crcInit :: (bs.map .crcByte ++ [.crcRead]))
    _ = s.initCrc.run (bs.map .crcByte ++ [.crcRead]) :=
      State.run_cons (exec_crcInit_of_idle (s := s.issue _) h)
    _ = (s.initCrc.feedCrc bs).run [.crcRead] := run_map_crcByte_append (s := s.initCrc) h bs _
    _ = (s.initCrc.feedCrc bs).readCrc.run [] := State.run_cons (exec_crcRead _)

/-- Settles O23: `CRC.INIT` forgets the register, the bytes go through it in order, and the read shows
it. -/
theorem crcProgramEvaluatesCrc16 : Obligations.CrcProgramEvaluatesCrc16 := by
  intro s bs h
  refine ⟨_, run_crc16Script h bs, ?_, rfl⟩
  simp [State.issue, State.readCrc, State.feedCrc, State.initCrc, crc16_eq_fold, List.replicate_succ]

end Sys2Proof.Machine
end

section
/-! The frame as a function of the payload (43_framer.md R65, R66), field by field. -/

namespace Sys2Proof.Machine

theorem frame_eq (p : List Byte) :
    frame p = 0xAA :: 0xAA :: 0xAA :: 0xAA :: 0xAA :: 0x7E :: byteOf p.length ::
      (p ++ [highByte (frameChecksum p), lowByte (frameChecksum p)]) := rfl

theorem frame_length (p : List Byte) : (frame p).length = 9 + p.length := by
  simp only [frame_eq, List.length_cons, List.length_append, List.length_nil]
  omega

theorem frame_getElem?_preamble (p : List Byte) {i : Nat} (h : i < 5) :
    (frame p)[i]? = some Config.preambleByte := by
  match i, h with
  | 0, _ | 1, _ | 2, _ | 3, _ | 4, _ => rfl

theorem frame_getElem?_sync (p : List Byte) : (frame p)[5]? = some Config.syncByte := rfl

theorem frame_getElem?_length (p : List Byte) : (frame p)[6]? = some (byteOf p.length) := rfl

/-- What stands after the length byte: the payload and the checksum. -/
theorem frame_getElem?_seven_add (p : List Byte) (i : Nat) :
    (frame p)[7 + i]? = (p ++ [highByte (frameChecksum p), lowByte (frameChecksum p)])[i]? := by
  rw [Nat.add_comm, frame_eq]
  rfl

theorem frame_getElem?_payload {p : List Byte} {i : Nat} (h : i < p.length) :
    (frame p)[7 + i]? = p[i]? := by
  rw [frame_getElem?_seven_add, List.getElem?_append_left h]

theorem frame_getElem?_crcHi (p : List Byte) :
    (frame p)[7 + p.length]? = some (highByte (frameChecksum p)) := by
  simp [frame_getElem?_seven_add]

theorem frame_getElem?_crcLo (p : List Byte) :
    (frame p)[8 + p.length]? = some (lowByte (frameChecksum p)) := by
  rw [show 8 + p.length = 7 + (p.length + 1) by omega, frame_getElem?_seven_add]
  simp

theorem frame_drop_seven_add_length (p : List Byte) :
    (frame p).drop (7 + p.length) = bigEndianU16 (frameChecksum p) := by
  rw [← List.drop_drop, frame_eq]
  exact List.drop_left

theorem buildFrame_of_le {p : List Byte} (h : p.length ≤ 255) : buildFrame p = .ok (frame p) :=
  if_pos h

theorem buildFrame_of_lt {p : List Byte} (h : 255 < p.length) :
    buildFrame p = .error .payloadTooLarge := if_neg (Nat.not_le.2 h)

/-- A 16-bit value is its two bytes, the more significant first (20_memory.md R32). -/
theorem highByte_append_lowByte (v : BitVec 16) : highByte v ++ lowByte v = v := by
  rw [highByte, lowByte, BitVec.extractLsb'_append_extractLsb'_eq_extractLsb' (by rfl)]
  exact BitVec.extractLsb'_eq_self

theorem byteOf_toNat {n : Nat} (h : n ≤ 255) : (byteOf n).toNat = n :=
  (BitVec.toNat_ofNat ..).trans (Nat.mod_eq_of_lt (by omega))

/-- Settles O24: the frame written out, and its fields read off. -/
theorem frameFieldsStandInOrder : Obligations.FrameFieldsStandInOrder :=
  ⟨fun _ => buildFrame_of_lt, fun p h =>
    ⟨buildFrame_of_le h, fun _ => frame_getElem?_preamble p, frame_getElem?_sync p,
      frame_getElem?_length p, fun _ => frame_getElem?_payload, frame_getElem?_crcHi p,
      frame_getElem?_crcLo p, frame_length p⟩⟩

/-- Settles O25: the last two bytes put together are the checksum. -/
theorem buildFrameLengthAndChecksum : Obligations.BuildFrameLengthAndChecksum := by
  intro p h
  have hlen := frame_length p
  exact ⟨frame p, buildFrame_of_le h, by omega, by omega, by omega, byteOf p.length,
    frame_getElem?_length p, byteOf_toNat h, highByte (frameChecksum p), lowByte (frameChecksum p),
    frame_drop_seven_add_length p, (highByte_append_lowByte _).symm⟩

end Sys2Proof.Machine
end

section
/-! The commands of the FRM unit (43_framer.md R67 to R71), each alone. -/

namespace Sys2Proof.Machine

/-! ### What the responses show -/

/-- The code of `PLEN` is its value: nine bits hold 0 to 256 (10_state.md R13). -/
theorem plenCode_toNat (n : Fin 257) : (plenCode n).toNat = n.val :=
  (BitVec.toNat_ofNat ..).trans (Nat.mod_eq_of_lt (by omega))

theorem idxCode_toNat (i : Fin 255) : (idxCode i).toNat = i.val :=
  (BitVec.toNat_ofNat ..).trans (Nat.mod_eq_of_lt (by omega))

theorem frameByteData_false (b : Byte) : frameByteData b false = b.setWidth 32 := BitVec.or_zero

theorem frameByteData_true (b : Byte) : frameByteData b true = b.setWidth 32 ||| 0x100 := rfl

theorem lengthByte_eq (b : Block) : b.lengthByte = byteOf b.plen.val :=
  BitVec.setWidth_ofNat_of_le (by decide) _

theorem byteOf_setWidth {n : Nat} (h : n ≤ 255) : (byteOf n).setWidth 32 = BitVec.ofNat 32 n := by
  rw [← BitVec.toNat_inj, BitVec.toNat_setWidth, byteOf_toNat h, BitVec.toNat_ofNat]

/-! The fields of a response of `FRM.STAT`, read back (R71). -/

theorem statusData_plen (b : Block) : b.statusData.extractLsb' 0 9 = plenCode b.plen := by
  rw [Block.statusData, BitVec.extractLsb'_setWidth_of_le (by decide),
    BitVec.extractLsb'_append_eq_right]

theorem statusData_phase (b : Block) : b.statusData.extractLsb' 9 3 = phaseCode b.phase := by
  rw [Block.statusData, BitVec.extractLsb'_setWidth_of_le (by decide),
    BitVec.extractLsb'_append_eq_of_le (by decide)]
  exact BitVec.extractLsb'_append_eq_right

theorem statusData_idx (b : Block) : b.statusData.extractLsb' 12 8 = idxCode b.idx := by
  rw [Block.statusData, BitVec.extractLsb'_setWidth_of_le (by decide),
    BitVec.extractLsb'_append_eq_of_le (by decide)]
  exact BitVec.extractLsb'_append_eq_left

theorem statusData_above (b : Block) : b.statusData.extractLsb' 20 12 = 0 := by
  ext i hi
  simp [Block.statusData]

/-- `OVF` is bit 8 of the response (10_state.md R23). -/
theorem ovf_eq_statusData (b : Block) : b.ovf = b.statusData.getLsbD 8 := by
  rw [Block.ovf, ← statusData_plen]
  simp

/-- `BUSY`, by the code of `PHASE` (10_state.md R23). -/
theorem busy_eq_phaseCode (b : Block) : b.busy = (phaseCode b.phase != 0) := by
  unfold Block.busy
  cases b.phase <;> rfl

/-! ### FRM.CLEAR, FRM.PUSH and FRM.START -/

section
variable {s : State}

theorem exec_frmClear_of_idle (h : s.block.phase = .idle) :
    exec .frmClear s = .next { s with
      block := { s.block with plen := 0 }, responses := s.responses ++ [⟨.ok, 0⟩] } :=
  whenIdle_idle h _

/-- What `FRM.PUSH` makes of the block in `IDLE` (`exec_frmPush_of_idle`). -/
def Block.push (b : Block) (v : Byte) : Block :=
  match pushIndex b with
  | some i => { b.pbufWrite i v with plen := plenSucc i }
  | none => { b with plen := 256 }

theorem Block.push_of_lt {b : Block} (h : b.plen.val < 255) (v : Byte) :
    b.push v = { b.pbufWrite ⟨b.plen.val, h⟩ v with plen := plenSucc ⟨b.plen.val, h⟩ } := by
  simp only [Block.push, pushIndex_of_lt h]

theorem Block.push_of_le {b : Block} (h : 255 ≤ b.plen.val) (v : Byte) :
    b.push v = { b with plen := 256 } := by
  simp only [Block.push, pushIndex_of_le h]

theorem exec_frmPush_of_idle (h : s.block.phase = .idle) (v : Byte) :
    exec (.frmPush v) s = .next { s with
      block := s.block.push v, responses := s.responses ++ [⟨.ok, 0⟩] } := by
  refine (whenIdle_idle h _).trans ?_
  unfold Block.push
  cases pushIndex s.block <;> rfl

theorem exec_frmStart_of_idle (h : s.block.phase = .idle) (hp : s.block.plen.val ≤ 255) :
    exec .frmStart s = .next { s with
      block := { s.block with phase := .preamble, idx := 0, crc := 0xFFFF },
      responses := s.responses ++ [⟨.ok, 0⟩] } := by
  have hne : s.block.plen ≠ 256 := fun h => by simp [h] at hp
  exact (whenIdle_idle h _).trans (if_neg hne)

theorem exec_frmStart_of_oversize (h : s.block.phase = .idle) (hp : s.block.plen.val = 256) :
    exec .frmStart s = .next { s with
      responses := s.responses ++ [⟨.error .payloadTooLarge, 0⟩] } :=
  (whenIdle_idle h _).trans (if_pos (Fin.ext hp))

/-! ### FRM.NEXT, phase by phase -/

theorem exec_frmNext_idle (h : s.block.phase = .idle) :
    exec .frmNext s = .next { s with responses := s.responses ++ [⟨.error .noFrame, 0⟩] } := by
  simp only [exec, execFrmNext, h, raise_eq]

theorem exec_frmNext_preamble {i : Fin 255} (h : s.block.phase = .preamble)
    (hidx : s.block.idx.val < 4) (hi : i.val = s.block.idx.val + 1) :
    exec .frmNext s = .next { s with
      block := { s.block with idx := i }, responses := s.responses ++ [⟨.ok, 0xAA⟩] } := by
  have hsucc : idxSucc s.block.idx = some i := by
    rw [idxSucc_of_lt (by omega)]
    exact congrArg some (Fin.ext hi.symm)
  have hne : s.block.idx.val ≠ Config.preambleLen - 1 := hidx.ne
  simp only [exec, execFrmNext, h, nextPreamble, if_neg hne, advanceIdx, hsucc]
  rfl

theorem exec_frmNext_preamble_last (h : s.block.phase = .preamble) (hidx : s.block.idx.val = 4) :
    exec .frmNext s = .next { s with
      block := { s.block with phase := .sync, idx := 0 },
      responses := s.responses ++ [⟨.ok, 0xAA⟩] } := by
  simp only [exec, execFrmNext, h, nextPreamble]
  exact if_pos hidx

theorem exec_frmNext_sync (h : s.block.phase = .sync) :
    exec .frmNext s = .next { s with
      block := { s.block with phase := .length }, responses := s.responses ++ [⟨.ok, 0x7E⟩] } := by
  simp only [exec, execFrmNext, h]
  rfl

theorem exec_frmNext_length (h : s.block.phase = .length) :
    exec .frmNext s = .next { s with
      block := { s.block with
        crc := crcByte s.block.crc (byteOf s.block.plen.val)
        phase := if s.block.plen.val = 0 then .crcHi else .payload },
      responses := s.responses ++ [⟨.ok, (byteOf s.block.plen.val).setWidth 32⟩] } := by
  have hzero : s.block.plen = 0 ↔ s.block.plen.val = 0 := Fin.ext_iff
  simp only [exec, execFrmNext, h, nextLength, lengthByte_eq, emitByte, frameByteData_false, hzero]
  rfl

theorem exec_frmNext_payload_last (h : s.block.phase = .payload)
    (hidx : s.block.idx.val + 1 = s.block.plen.val) :
    exec .frmNext s = .next { s with
      block := { s.block with
        crc := crcByte s.block.crc (s.block.pbufRead s.block.idx), phase := .crcHi, idx := 0 },
      responses := s.responses ++ [⟨.ok, (s.block.pbufRead s.block.idx).setWidth 32⟩] } := by
  simp only [exec, execFrmNext, h, nextPayload, if_pos hidx, emitByte, frameByteData_false]
  rfl

theorem exec_frmNext_payload {i : Fin 255} (h : s.block.phase = .payload)
    (hidx : s.block.idx.val + 1 ≠ s.block.plen.val) (hi : i.val = s.block.idx.val + 1) :
    exec .frmNext s = .next { s with
      block := { s.block with
        crc := crcByte s.block.crc (s.block.pbufRead s.block.idx), idx := i },
      responses := s.responses ++ [⟨.ok, (s.block.pbufRead s.block.idx).setWidth 32⟩] } := by
  have hsucc : idxSucc s.block.idx = some i := by
    rw [idxSucc_of_lt (by omega)]
    exact congrArg some (Fin.ext hi.symm)
  simp only [exec, execFrmNext, h, nextPayload, if_neg hidx, advanceIdx, State.setCrc_idx, hsucc,
    emitByte, frameByteData_false, State.setCrc_phase]
  rfl

theorem exec_frmNext_crcHi (h : s.block.phase = .crcHi) :
    exec .frmNext s = .next { s with
      block := { s.block with phase := .crcLo },
      responses := s.responses ++ [⟨.ok, (highByte (crcResult s.block.crc)).setWidth 32⟩] } := by
  simp only [exec, execFrmNext, h, nextCrcHi, emitByte, frameByteData_false]
  rfl

theorem exec_frmNext_crcLo (h : s.block.phase = .crcLo) :
    exec .frmNext s = .next { s with
      block := { s.block with phase := .idle },
      responses := s.responses ++
        [⟨.ok, (lowByte (crcResult s.block.crc)).setWidth 32 ||| 0x100⟩] } := by
  simp only [exec, execFrmNext, h]
  rfl

end

/-! ### The statements -/

/-- Settles O26: the guard of R104 on either side. -/
theorem frmClearEmptiesBuffer : Obligations.FrmClearEmptiesBuffer :=
  ⟨rfl, fun _ => ⟨exec_frmClear_of_idle, fun h => whenIdle_busy h _⟩⟩

/-- Settles O27: with room left the cell at `PLEN` is written, and no other. -/
theorem frmPushAppendsOneByte : Obligations.FrmPushAppendsOneByte := by
  refine ⟨fun _ => rfl, fun b s => ⟨fun h hp => ?_, fun h hp => ?_, fun h => whenIdle_busy h _⟩⟩
  · have hlt : s.block.plen.val < 255 := by omega
    refine ⟨⟨s.block.plen.val, hlt⟩, _, pushIndex_of_lt hlt, rfl, exec_frmPush_of_idle h b, rfl, ?_⟩
    rw [Block.push_of_lt hlt]
    refine ⟨rfl, ?_, fun j hj => ?_, rfl, rfl, rfl⟩
    · exact (Block.pbufRead_pbufWrite _ _ _ _).trans (if_pos rfl)
    · exact (Block.pbufRead_pbufWrite _ _ _ _).trans (if_neg hj)
  · refine ⟨pushIndex_of_le hp, ?_⟩
    rw [exec_frmPush_of_idle h, Block.push_of_le hp]

/-- Settles O28: in `IDLE` the length decides; the guard of R104 comes first. -/
theorem frmStartBeginsFrame : Obligations.FrmStartBeginsFrame :=
  ⟨rfl, fun _ => ⟨exec_frmStart_of_idle, exec_frmStart_of_oversize, fun h => whenIdle_busy h _⟩⟩

/-- Settles O29: the lemmas of the phases; the invariants keep the length in a byte and the next index
in its range. -/
theorem frmNextReturnsNextByte : Obligations.FrmNextReturnsNextByte := by
  refine ⟨rfl, fun s hr => ⟨exec_frmNext_idle, fun h hidx => ?preamble, exec_frmNext_preamble_last,
    exec_frmNext_sync, fun h => ?length, exec_frmNext_payload_last, fun h hidx => ?payload,
    exec_frmNext_crcHi, exec_frmNext_crcLo⟩⟩
  case preamble =>
    exact ⟨⟨s.block.idx.val + 1, by omega⟩, rfl, exec_frmNext_preamble h hidx rfl⟩
  case length =>
    rw [← byteOf_setWidth (hr.busyPlen (by simp [h]))]
    exact exec_frmNext_length h
  case payload =>
    have hlt := hr.payloadIdx h
    have hplen := hr.busyPlen (by simp [h])
    exact ⟨⟨s.block.idx.val + 1, by omega⟩, rfl, exec_frmNext_payload h hidx rfl⟩

/-- Settles O30: the response is the three codes side by side. -/
theorem frmStatShowsFramerState : Obligations.FrmStatShowsFramerState := by
  refine ⟨rfl, fun s => ⟨s.block.statusData, rfl, ?_⟩⟩
  rw [statusData_plen, statusData_phase, statusData_idx]
  exact ⟨plenCode_toNat _, rfl, idxCode_toNat _, statusData_above _, ovf_eq_statusData _,
    busy_eq_phaseCode _⟩

end Sys2Proof.Machine
end

section
/-! A frame in progress, by the number of its bytes that have been delivered: where the sequencer then
stands (43_framer.md R77), what the checksum then covers (10_state.md R26 (i), (j)), and what has been
answered. -/

namespace Sys2Proof.Machine

/-! ### The responses that carry a frame -/

/-- `last` of each byte of a frame whose payload has `n` bytes (10_state.md R23). -/
def lastFlags (n : Nat) : List Bool := List.replicate (8 + n) false ++ [true]

/-- The responses of `FRM.NEXT` by which `frame(p)` is read (43_framer.md R72). -/
def frameResponses (p : List Byte) : List Response :=
  ((frame p).zip (lastFlags p.length)).map fun x => ⟨.ok, frameByteData x.1 x.2⟩

theorem frameByte_frameByteData (st : Status) (b : Byte) (last : Bool) :
    Response.frameByte ⟨st, frameByteData b last⟩ = b := by
  cases last <;> ext i hi <;> simp [Response.frameByte, frameByteData]

theorem last_frameByteData (st : Status) (b : Byte) (last : Bool) :
    Response.last ⟨st, frameByteData b last⟩ = last := by
  cases last <;> simp [Response.last, frameByteData]

theorem length_lastFlags (p : List Byte) : (lastFlags p.length).length = (frame p).length := by
  rw [lastFlags, List.length_append, List.length_replicate, List.length_singleton, frame_length]
  omega

theorem length_frameResponses (p : List Byte) : (frameResponses p).length = 9 + p.length := by
  simp [frameResponses, length_lastFlags, frame_length]

theorem status_of_mem_frameResponses {p : List Byte} {r : Response} (h : r ∈ frameResponses p) :
    r.status = .ok := by
  obtain ⟨x, -, rfl⟩ := List.mem_map.1 h
  rfl

theorem frameResponses_map_frameByte (p : List Byte) :
    (frameResponses p).map Response.frameByte = frame p := by
  simp only [frameResponses, List.map_map, Function.comp_def, frameByte_frameByteData]
  exact List.map_fst_zip (length_lastFlags p).ge

theorem frameResponses_map_last (p : List Byte) :
    (frameResponses p).map Response.last = lastFlags p.length := by
  simp only [frameResponses, List.map_map, Function.comp_def, last_frameByteData]
  exact List.map_snd_zip (length_lastFlags p).le

theorem frameResponses_getElem? {p : List Byte} {k : Nat} {b : Byte} (h : (frame p)[k]? = some b)
    (hk : k < 8 + p.length) : (frameResponses p)[k]? = some ⟨.ok, b.setWidth 32⟩ := by
  have hlast : (lastFlags p.length)[k]? = some false := by
    simp [lastFlags, List.getElem?_append_left, hk]
  have hzip : ((frame p).zip (lastFlags p.length))[k]? = some (b, false) :=
    List.getElem?_zip_eq_some.2 ⟨h, hlast⟩
  rw [frameResponses, List.getElem?_map, hzip, Option.map_some, frameByteData_false]

theorem frameResponses_getElem?_last (p : List Byte) :
    (frameResponses p)[8 + p.length]? =
      some ⟨.ok, (lowByte (frameChecksum p)).setWidth 32 ||| 0x100⟩ := by
  have hlast : (lastFlags p.length)[8 + p.length]? = some true := by
    simp [lastFlags]
  have hzip : ((frame p).zip (lastFlags p.length))[8 + p.length]? =
      some (lowByte (frameChecksum p), true) :=
    List.getElem?_zip_eq_some.2 ⟨frame_getElem?_crcLo p, hlast⟩
  rw [frameResponses, List.getElem?_map, hzip, Option.map_some, frameByteData_true]

/-! ### The block in the middle of its frame -/

/-- `PHASE` when `k` bytes of a frame with `n` payload bytes have been delivered. -/
def phaseAtByte (n k : Nat) : Phase :=
  if k < 5 then .preamble else if k = 5 then .sync else if k = 6 then .length
  else if k < 7 + n then .payload else if k = 7 + n then .crcHi else if k = 8 + n then .crcLo
  else .idle

/-- `IDX` when `k` bytes of a frame with `n` payload bytes have been delivered. -/
def idxAtByte (n k : Nat) : Nat :=
  if k < 5 then k else if k < 7 then 0 else if k < 7 + n then k - 7 else 0

/-- The block when `k` bytes of its frame have been delivered: the checksum covers those of them that
follow the sync byte, as far as the end of the payload. -/
def Block.atByte (b : Block) (k : Nat) : Block :=
  { b with
    crc := crc16 ((lengthPrefixed b.payload).take (k - 6))
    phase := phaseAtByte b.plen.val k
    idx := Fin.ofNat 255 (idxAtByte b.plen.val k) }

theorem Block.payload_length (b : Block) : b.payload.length = b.plen.val :=
  Block.pbufPrefix_length b _

theorem Block.payload_take {b : Block} {i : Nat} (h : i ≤ b.plen.val) :
    b.payload.take i = b.pbufPrefix i := by
  rw [Block.payload, Block.pbufPrefix, ← List.map_take, List.take_range, Nat.min_eq_left h]
  rfl

theorem Block.payload_getElem? {b : Block} {i : Nat} (h : i < b.plen.val) :
    b.payload[i]? = some (Memory.read b.pbuf i) := by
  simp [Block.payload, Block.pbufPrefix, h]

section
variable (b : Block)

theorem Block.atByte_of_le_six {k : Nat} (h : k ≤ 6) : b.atByte k = { b with
    crc := 0xFFFF
    phase := phaseAtByte b.plen.val k
    idx := Fin.ofNat 255 (idxAtByte b.plen.val k) } := by
  rw [Block.atByte, Nat.sub_eq_zero_of_le h, List.take_zero, crc16_eq_fold, crcFold_nil]

theorem Block.atByte_preamble {k : Nat} (h : k < 5) : b.atByte k = { b with
    crc := 0xFFFF, phase := .preamble, idx := Fin.ofNat 255 k } := by
  rw [Block.atByte_of_le_six b (by omega), phaseAtByte, idxAtByte, if_pos h, if_pos h]

theorem Block.atByte_sync : b.atByte 5 = { b with
    crc := 0xFFFF, phase := .sync, idx := 0 } := by
  rw [Block.atByte_of_le_six b (by omega)]
  rfl

theorem Block.atByte_length : b.atByte 6 = { b with
    crc := 0xFFFF, phase := .length, idx := 0 } := by
  rw [Block.atByte_of_le_six b (by omega)]
  rfl

theorem Block.atByte_payload {i : Nat} (h : i < b.plen.val) :
    b.atByte (7 + i) = { b with
      crc := crc16 (byteOf b.plen.val :: b.pbufPrefix i)
      phase := .payload
      idx := Fin.ofNat 255 i } := by
  have hcrc : (lengthPrefixed b.payload).take (7 + i - 6) = byteOf b.plen.val :: b.pbufPrefix i := by
    rw [show 7 + i - 6 = i + 1 by omega, lengthPrefixed, List.take_succ_cons, b.payload_length,
      Block.payload_take h.le]
  have hphase : phaseAtByte b.plen.val (7 + i) = .payload := by
    simp only [phaseAtByte]; grind
  have hidx : idxAtByte b.plen.val (7 + i) = i := by
    simp only [idxAtByte]; grind
  rw [Block.atByte, hcrc, hphase, hidx]

theorem Block.atByte_of_le {k : Nat} (h : 7 + b.plen.val ≤ k) :
    b.atByte k = { b with
      crc := frameChecksum b.payload, phase := phaseAtByte b.plen.val k, idx := 0 } := by
  have hcrc : (lengthPrefixed b.payload).take (k - 6) = lengthPrefixed b.payload := by
    apply List.take_of_length_le
    rw [lengthPrefixed, List.length_cons, b.payload_length]
    omega
  have hidx : idxAtByte b.plen.val k = 0 := by
    simp only [idxAtByte]; grind
  rw [Block.atByte, hcrc, hidx]
  rfl

theorem Block.atByte_crcHi : b.atByte (7 + b.plen.val) = { b with
    crc := frameChecksum b.payload, phase := .crcHi, idx := 0 } := by
  have hphase : phaseAtByte b.plen.val (7 + b.plen.val) = .crcHi := by
    simp only [phaseAtByte]; grind
  rw [Block.atByte_of_le b le_rfl, hphase]

theorem Block.atByte_crcLo : b.atByte (8 + b.plen.val) = { b with
    crc := frameChecksum b.payload, phase := .crcLo, idx := 0 } := by
  have hphase : phaseAtByte b.plen.val (8 + b.plen.val) = .crcLo := by
    simp only [phaseAtByte]; grind
  rw [Block.atByte_of_le b (by omega), hphase]

theorem Block.atByte_end : b.atByte (9 + b.plen.val) = { b with
    crc := frameChecksum b.payload, phase := .idle, idx := 0 } := by
  have hphase : phaseAtByte b.plen.val (9 + b.plen.val) = .idle := by
    simp only [phaseAtByte]; grind
  rw [Block.atByte_of_le b (by omega), hphase]

end

/-! ### FRM.NEXT, byte by byte -/

/-- `s`, whose frame has been started, when `k` of its bytes have been delivered
(`exec_frmNext_emitted`). -/
def State.emitted (s : State) (k : Nat) : State :=
  { s with
    block := s.block.atByte k
    responses := s.responses ++ (frameResponses s.block.payload).take k }

section
variable {s : State}

theorem State.emitted_succ {k : Nat} {r : Response}
    (h : (frameResponses s.block.payload)[k]? = some r) :
    s.emitted (k + 1) = { s.emitted k with
      block := s.block.atByte (k + 1), responses := (s.emitted k).responses ++ [r] } := by
  simp [State.emitted, List.take_add_one, h]

/-- One byte more is delivered by what answers with it and leaves the block that follows. -/
theorem exec_frmNext_emitted_of {k k' : Nat} {r : Response} {b : Block}
    (h : exec .frmNext (s.emitted k) = .next { s.emitted k with
      block := b, responses := (s.emitted k).responses ++ [r] })
    (hr : (frameResponses s.block.payload)[k]? = some r) (hk : k' = k + 1)
    (hb : b = s.block.atByte k') :
    exec .frmNext (s.emitted k) = .next (s.emitted k') := by
  rw [h, hb, hk, State.emitted_succ hr]

theorem frameResponses_payload_getElem? {k : Nat} {b : Byte}
    (h : (frame s.block.payload)[k]? = some b) (hk : k < 8 + s.block.plen.val) :
    (frameResponses s.block.payload)[k]? = some ⟨.ok, b.setWidth 32⟩ :=
  frameResponses_getElem? h (by rwa [Block.payload_length])

theorem exec_frmNext_emitted_preamble {k : Nat} (hk : k < 5) :
    exec .frmNext (s.emitted k) = .next (s.emitted (k + 1)) := by
  have hblock : (s.emitted k).block = _ := s.block.atByte_preamble hk
  have hphase : (s.emitted k).block.phase = .preamble := congrArg Block.phase hblock
  have hidx : (s.emitted k).block.idx.val = k := by
    rw [hblock]
    exact Nat.mod_eq_of_lt (by omega)
  have hr := frameResponses_payload_getElem? (frame_getElem?_preamble s.block.payload hk) (by omega)
  obtain hlt | rfl : k < 4 ∨ k = 4 := by omega
  · have hsucc : (Fin.ofNat 255 (k + 1)).val = (s.emitted k).block.idx.val + 1 := by
      rw [hidx]
      exact Nat.mod_eq_of_lt (by omega)
    refine exec_frmNext_emitted_of (exec_frmNext_preamble hphase (by omega) hsucc) hr rfl ?_
    rw [hblock, Block.atByte_preamble _ (by omega)]
  · refine exec_frmNext_emitted_of (exec_frmNext_preamble_last hphase hidx) hr rfl ?_
    rw [hblock, Block.atByte_sync]

theorem exec_frmNext_emitted_sync : exec .frmNext (s.emitted 5) = .next (s.emitted 6) := by
  have hblock : (s.emitted 5).block = _ := s.block.atByte_sync
  refine exec_frmNext_emitted_of (exec_frmNext_sync (congrArg Block.phase hblock))
    (frameResponses_payload_getElem? (frame_getElem?_sync _) (by omega)) rfl ?_
  rw [hblock, Block.atByte_length]

/-- After the length byte the payload follows, or the checksum where there is none (R75). -/
theorem exec_frmNext_emitted_length : exec .frmNext (s.emitted 6) = .next (s.emitted 7) := by
  have hblock : (s.emitted 6).block = _ := s.block.atByte_length
  have hbyte := frame_getElem?_length s.block.payload
  rw [Block.payload_length] at hbyte
  have hexec := exec_frmNext_length (congrArg Block.phase hblock)
  rw [hblock] at hexec
  refine exec_frmNext_emitted_of hexec (frameResponses_payload_getElem? hbyte (by omega)) rfl ?_
  rcases Nat.eq_zero_or_pos s.block.plen.val with h0 | h0
  · have hnext : s.block.atByte 7 = _ := h0 ▸ s.block.atByte_crcHi
    simp [hnext, h0, frameChecksum, lengthPrefixed, Block.payload, crc16_eq_fold]
  · have hnext : s.block.atByte 7 = _ := s.block.atByte_payload h0
    simp [hnext, h0.ne', crc16_eq_fold]

theorem exec_frmNext_emitted_payload (hp : s.block.plen.val ≤ 255) {i : Nat}
    (hi : i < s.block.plen.val) :
    exec .frmNext (s.emitted (7 + i)) = .next (s.emitted (7 + i + 1)) := by
  have hblock : (s.emitted (7 + i)).block = _ := s.block.atByte_payload hi
  have hphase : (s.emitted (7 + i)).block.phase = .payload := congrArg Block.phase hblock
  have hplen : (s.emitted (7 + i)).block.plen = s.block.plen := rfl
  have hidx : (s.emitted (7 + i)).block.idx.val = i := by
    rw [hblock]
    exact Nat.mod_eq_of_lt (by omega)
  have hread : (s.emitted (7 + i)).block.pbufRead (s.emitted (7 + i)).block.idx =
      Memory.read s.block.pbuf i := by
    rw [Block.pbufRead, hidx, hblock]
  have hcrc : crcByte (s.emitted (7 + i)).block.crc (Memory.read s.block.pbuf i) =
      crc16 (byteOf s.block.plen.val :: s.block.pbufPrefix (i + 1)) := by
    rw [hblock, ← crc16_concat, Block.pbufPrefix_succ, List.cons_append]
  have hbyte : (frame s.block.payload)[7 + i]? = some (Memory.read s.block.pbuf i) := by
    rw [frame_getElem?_payload (by rwa [Block.payload_length]), Block.payload_getElem? hi]
  have hr := frameResponses_payload_getElem? hbyte (by omega)
  obtain hlt | hlast : i + 1 < s.block.plen.val ∨ i + 1 = s.block.plen.val := by omega
  · have hsucc : (Fin.ofNat 255 (i + 1)).val = (s.emitted (7 + i)).block.idx.val + 1 := by
      rw [hidx]
      exact Nat.mod_eq_of_lt (by omega)
    have hexec := exec_frmNext_payload hphase (by omega) hsucc
    rw [hread, hcrc] at hexec
    refine exec_frmNext_emitted_of hexec hr rfl ?_
    rw [hblock, Nat.add_assoc, Block.atByte_payload _ hlt]
  · have hexec := exec_frmNext_payload_last hphase (by omega)
    rw [hread, hcrc] at hexec
    refine exec_frmNext_emitted_of hexec hr rfl ?_
    rw [hblock, Nat.add_assoc, hlast, Block.atByte_crcHi, frameChecksum, lengthPrefixed,
      Block.payload_length, Block.payload]

theorem exec_frmNext_emitted_crcHi :
    exec .frmNext (s.emitted (7 + s.block.plen.val)) = .next (s.emitted (8 + s.block.plen.val)) := by
  have hblock : (s.emitted (7 + s.block.plen.val)).block = _ := s.block.atByte_crcHi
  have hbyte := frame_getElem?_crcHi s.block.payload
  rw [Block.payload_length] at hbyte
  have hexec := exec_frmNext_crcHi (congrArg Block.phase hblock)
  rw [crcResult_eq, hblock] at hexec
  refine exec_frmNext_emitted_of hexec (frameResponses_payload_getElem? hbyte (by omega))
    (by omega) ?_
  rw [Block.atByte_crcLo]

theorem exec_frmNext_emitted_crcLo :
    exec .frmNext (s.emitted (8 + s.block.plen.val)) = .next (s.emitted (9 + s.block.plen.val)) := by
  have hblock : (s.emitted (8 + s.block.plen.val)).block = _ := s.block.atByte_crcLo
  have hr := frameResponses_getElem?_last s.block.payload
  rw [Block.payload_length] at hr
  have hexec := exec_frmNext_crcLo (congrArg Block.phase hblock)
  rw [crcResult_eq, hblock] at hexec
  refine exec_frmNext_emitted_of hexec hr (by omega) ?_
  rw [Block.atByte_end]

/-- `FRM.NEXT` delivers the frame's bytes in order, `last` with the last one. -/
theorem exec_frmNext_emitted (hp : s.block.plen.val ≤ 255) {k : Nat}
    (hk : k < 9 + s.block.plen.val) :
    exec .frmNext (s.emitted k) = .next (s.emitted (k + 1)) := by
  obtain h | rfl | rfl | h | h | h : k < 5 ∨ k = 5 ∨ k = 6 ∨ (7 ≤ k ∧ k < 7 + s.block.plen.val) ∨
      k = 7 + s.block.plen.val ∨ k = 8 + s.block.plen.val := by omega
  · exact exec_frmNext_emitted_preamble h
  · exact exec_frmNext_emitted_sync
  · exact exec_frmNext_emitted_length
  · obtain ⟨i, rfl⟩ := Nat.exists_eq_add_of_le h.1
    exact exec_frmNext_emitted_payload hp (by omega)
  · rw [show k + 1 = 8 + s.block.plen.val by omega, h]
    exact exec_frmNext_emitted_crcHi
  · rw [show k + 1 = 9 + s.block.plen.val by omega, h]
    exact exec_frmNext_emitted_crcLo

/-! ### The whole frame -/

/-- `s` with one more answer `OK`, without data. -/
def State.answerOk (s : State) : State := { s with responses := s.responses ++ [⟨.ok, 0⟩] }

theorem exec_frmStart_emitted (h : s.block.phase = .idle) (hp : s.block.plen.val ≤ 255) :
    exec .frmStart s = .next (s.answerOk.emitted 0) := by
  rw [exec_frmStart_of_idle h hp, State.emitted, Block.atByte_preamble _ (by omega), List.take_zero,
    List.append_nil]
  rfl

/-- A run may read any number of the bytes that are left before its other commands. -/
theorem run_replicate_frmNext_append (hp : s.block.plen.val ≤ 255) (is : List Instr) {k m : Nat}
    (h : k + m ≤ 9 + s.block.plen.val) :
    (s.emitted k).run (List.replicate m .frmNext ++ is) = (s.emitted (k + m)).run is := by
  induction m generalizing k with
  | zero => rfl
  | succ m ih =>
    have hk : k < 9 + s.block.plen.val := by omega
    calc (s.emitted k).run (.frmNext :: (List.replicate m .frmNext ++ is))
      _ = (s.emitted (k + 1)).run (List.replicate m .frmNext ++ is) :=
        State.run_cons (exec_frmNext_emitted (s := s.issue _) hp hk)
      _ = (s.emitted (k + 1 + m)).run is := ih (by omega)
      _ = (s.emitted (k + (m + 1))).run is := by rw [Nat.add_assoc, Nat.add_comm 1]

/-- What `FRM.START` and the reading of the whole frame make of `s` in `IDLE` (`run_frame_append`). -/
def State.frameRead (s : State) : State :=
  { s with
    block := { s.block with crc := frameChecksum s.block.payload, phase := .idle, idx := 0 }
    responses := s.responses ++ ⟨.ok, 0⟩ :: frameResponses s.block.payload }

theorem answerOk_emitted_end (s : State) :
    s.answerOk.emitted (9 + s.block.plen.val) = s.frameRead := by
  have hall : (frameResponses s.block.payload).take (9 + s.block.plen.val) =
      frameResponses s.block.payload := by
    rw [← Block.payload_length, ← length_frameResponses, List.take_length]
  simp only [State.emitted, State.answerOk, State.frameRead, hall, Block.atByte_end,
    List.append_assoc, List.singleton_append]

theorem run_frame_append (h : s.block.phase = .idle) (hp : s.block.plen.val ≤ 255) (is : List Instr) :
    s.run (.frmStart :: List.replicate (9 + s.block.plen.val) .frmNext ++ is) = s.frameRead.run is :=
  calc s.run (.frmStart :: (List.replicate (9 + s.block.plen.val) .frmNext ++ is))
    _ = (s.answerOk.emitted 0).run (List.replicate (9 + s.block.plen.val) .frmNext ++ is) :=
      State.run_cons (exec_frmStart_emitted (s := s.issue _) h hp)
    _ = (s.answerOk.emitted (0 + (9 + s.block.plen.val))).run is :=
      run_replicate_frmNext_append (s := s.answerOk) hp is (Nat.zero_add _).le
    _ = s.frameRead.run is := by rw [Nat.zero_add, answerOk_emitted_end]

end

/-- Settles O32: `FRM.START` and the reads run to `frameRead`, which moves nothing else, as `IDX` is 0
in `IDLE` (10_state.md R26 (f)). -/
theorem startedFrameIsThatOfTheBuffer : Obligations.StartedFrameIsThatOfTheBuffer := by
  rintro s ⟨hr, h⟩ hp
  have hidx : s.block.idx = 0 := Fin.ext (hr.otherIdx (by simp [h]) (by simp [h]))
  have hrun := run_frame_append h hp []
  rw [List.append_nil] at hrun
  refine ⟨_, frameResponses s.block.payload, hrun, rfl, fun _ => status_of_mem_frameResponses,
    frameResponses_map_frameByte _, ?_⟩
  simp only [State.issue, State.frameRead, frameChecksum, lengthPrefixed, Block.payload_length,
    ← h, ← hidx]
  rfl

end Sys2Proof.Machine
end

section
/-! Filling the buffer (43_framer.md R67, R68), in a run. -/

namespace Sys2Proof.Machine

/-- What `FRM.PUSH` of each byte makes of the block in `IDLE`. -/
def Block.pushAll (b : Block) (vs : List Byte) : Block := vs.foldl Block.push b

theorem Block.push_phase (b : Block) (v : Byte) : (b.push v).phase = b.phase := by
  unfold Block.push
  cases pushIndex b <;> rfl

theorem Block.pushAll_phase (b : Block) (vs : List Byte) : (b.pushAll vs).phase = b.phase := by
  induction vs generalizing b with
  | nil => rfl
  | cons v vs ih => exact (ih (b.push v)).trans (b.push_phase v)

/-- A byte pushed while there is room is the payload's next (10_state.md R13). -/
theorem Block.payload_push {b : Block} (h : b.plen.val < 255) (v : Byte) :
    (b.push v).payload = b.payload ++ [v] := by
  rw [Block.push_of_lt h]
  calc (b.pbufWrite ⟨b.plen.val, h⟩ v).pbufPrefix (b.plen.val + 1)
    _ = (b.pbufWrite ⟨b.plen.val, h⟩ v).pbufPrefix b.plen.val ++ [v] := by
      rw [Block.pbufPrefix_succ]
      exact congrArg (_ ++ [·]) ((Memory.read_write _ _ _ _).trans (if_pos rfl))
    _ = b.payload ++ [v] := by rw [Block.pbufPrefix_write _ _ _ le_rfl, Block.payload]

theorem Block.payload_pushAll {b : Block} {vs : List Byte} (h : b.plen.val + vs.length ≤ 255) :
    (b.pushAll vs).payload = b.payload ++ vs := by
  induction vs generalizing b with
  | nil => exact (List.append_nil _).symm
  | cons v vs ih =>
    rw [List.length_cons] at h
    have hlt : b.plen.val < 255 := by omega
    have hplen : (b.push v).plen.val = b.plen.val + 1 := by rw [Block.push_of_lt hlt]; rfl
    calc ((b.push v).pushAll vs).payload
      _ = (b.push v).payload ++ vs := ih (by omega)
      _ = b.payload ++ v :: vs := by rw [Block.payload_push hlt, List.append_assoc]; rfl

/-- What `FRM.CLEAR` makes of `s` in `IDLE` (`exec_frmClear_of_idle`). -/
def State.clear (s : State) : State := (s.setPlen 0).answerOk

/-- What `FRM.PUSH` of each byte makes of `s` in `IDLE` (`run_map_frmPush_append`). -/
def State.pushed (s : State) (vs : List Byte) : State :=
  { s with
    block := s.block.pushAll vs, responses := s.responses ++ List.replicate vs.length ⟨.ok, 0⟩ }

@[simp] theorem State.pushed_nil (s : State) : s.pushed [] = s := by
  simp [State.pushed, Block.pushAll]

theorem State.pushed_cons (s : State) (v : Byte) (vs : List Byte) :
    s.pushed (v :: vs) = (s.pushed [v]).pushed vs := by
  simp [State.pushed, Block.pushAll, List.replicate_succ]

/-- A run may push any number of bytes before its other commands. -/
theorem run_map_frmPush_append {s : State} (h : s.block.phase = .idle) (vs : List Byte)
    (is : List Instr) : s.run (vs.map .frmPush ++ is) = (s.pushed vs).run is := by
  induction vs generalizing s with
  | nil => rw [State.pushed_nil, List.map_nil, List.nil_append]
  | cons v vs ih =>
    calc s.run (.frmPush v :: (vs.map .frmPush ++ is))
      _ = (s.pushed [v]).run (vs.map .frmPush ++ is) :=
        State.run_cons (exec_frmPush_of_idle (s := s.issue _) h v)
      _ = ((s.pushed [v]).pushed vs).run is := ih ((s.block.push_phase v).trans h)
      _ = (s.pushed (v :: vs)).run is := by rw [← State.pushed_cons]

/-- What `FRAME` of `p` (30_encoding.md R48) makes of `s` in `IDLE` (`run_frameScript`). -/
def State.framed (s : State) (p : List Byte) : State := (s.clear.pushed p).frameRead

theorem State.clear_pushed_payload (s : State) {p : List Byte} (hp : p.length ≤ 255) :
    (s.clear.pushed p).block.payload = p :=
  Block.payload_pushAll (b := s.clear.block) ((Nat.zero_add _).le.trans hp)

theorem State.clear_pushed_plen (s : State) {p : List Byte} (hp : p.length ≤ 255) :
    (s.clear.pushed p).block.plen.val = p.length := by
  rw [← Block.payload_length, s.clear_pushed_payload hp]

/-- The framing theorem's own commands, with none between them (43_framer.md R72). -/
theorem run_frameScript {s : State} (h : s.block.phase = .idle) {p : List Byte}
    (hp : p.length ≤ 255) :
    s.run (frameScript .ok p) = .next ((s.framed p).issue []) := by
  have hplen := s.clear_pushed_plen hp
  have hphase : (s.clear.pushed p).block.phase = .idle := (Block.pushAll_phase _ p).trans h
  have hframe := run_frame_append hphase (hplen.trans_le hp) []
  rw [hplen, List.append_nil] at hframe
  calc s.run (.frmClear :: (p.map .frmPush ++ emitScript .ok p.length))
    _ = s.clear.run (p.map .frmPush ++ emitScript .ok p.length) :=
      State.run_cons (exec_frmClear_of_idle (s := s.issue _) h)
    _ = (s.clear.pushed p).run (emitScript .ok p.length) :=
      run_map_frmPush_append (s := s.clear) h p _
    _ = (s.clear.pushed p).frameRead.run [] := hframe

theorem State.framed_responses (s : State) {p : List Byte} (hp : p.length ≤ 255) :
    (s.framed p).responses =
      s.responses ++ (List.replicate (p.length + 2) ⟨.ok, 0⟩ ++ frameResponses p) := by
  rw [State.framed, State.frameRead, s.clear_pushed_payload hp, List.replicate_succ,
    List.replicate_succ']
  simp [State.pushed, State.clear, State.answerOk]

end Sys2Proof.Machine
end

section
/-! The bystanders of 43_framer.md R72: `CRC.READ`, `FRM.STAT` and `TIM.*` may stand anywhere in a
program without changing what its other commands answer or do to the framer. -/

namespace Sys2Proof.Machine

/-- The block without the two selectors, which the bystanders alone write (10_state.md R10). -/
def Block.framer (b : Block) : Block := { b with baudSel := .unselected, mult := 0 }

theorem Block.fields_of_framer_eq {a b : Block} (h : a.framer = b.framer) :
    a.crc = b.crc ∧ a.pbuf = b.pbuf ∧ a.plen = b.plen ∧ a.phase = b.phase ∧ a.idx = b.idx := by
  simpa [Block.framer] using h

/-- `s` with the framer of `c`, and with the responses of `c` after its own. -/
def State.withFramer (s c : State) : State :=
  { s with
    block := { c.block with baudSel := s.block.baudSel, mult := s.block.mult }
    responses := s.responses ++ c.responses }

/-- What `f` makes of the next state, if there is one. -/
def mapNext (f : State → State) : Result → Result
  | .next t => .next (f t)
  | .fault r => .fault r
  | .refused r => .refused r

section
variable (s c : State)

theorem respond_withFramer (st : Status) (d : ResponseData) :
    respond st d (s.withFramer c) = mapNext s.withFramer (respond st d c) := by
  simp [State.withFramer, mapNext]

theorem whenIdle_withFramer {k k' : Result} (h : k' = mapNext s.withFramer k) :
    whenIdle (s.withFramer c) k' = mapNext s.withFramer (whenIdle c k) := by
  by_cases hp : c.block.phase = .idle
  · rw [whenIdle_idle hp, whenIdle_idle (s := s.withFramer c) hp, h]
  · rw [whenIdle_busy hp, whenIdle_busy (s := s.withFramer c) hp]
    exact respond_withFramer s c _ _

theorem advanceIdx_withFramer (out : Byte) :
    advanceIdx out (s.withFramer c) = mapNext s.withFramer (advanceIdx out c) := by
  have hidx : (s.withFramer c).block.idx = c.block.idx := rfl
  unfold advanceIdx
  rw [hidx]
  cases idxSucc c.block.idx with
  | some i => exact respond_withFramer s (c.setSequencer _ i) _ _
  | none => rfl

theorem execFrmNext_withFramer :
    execFrmNext (s.withFramer c) = mapNext s.withFramer (execFrmNext c) := by
  have hphase : (s.withFramer c).block.phase = c.block.phase := rfl
  have hidx : (s.withFramer c).block.idx = c.block.idx := rfl
  have hplen : (s.withFramer c).block.plen = c.block.plen := rfl
  unfold execFrmNext
  rw [hphase]
  cases c.block.phase with
  | preamble =>
    simp only [nextPreamble, hidx]
    split
    · exact respond_withFramer s (c.setSequencer _ _) _ _
    · exact advanceIdx_withFramer s c _
  | payload =>
    simp only [nextPayload, hidx, hplen]
    split
    · exact respond_withFramer s ((c.setCrc _).setSequencer _ _) _ _
    · exact advanceIdx_withFramer s (c.setCrc _) _
  | idle => exact respond_withFramer s c _ _
  | sync | crcHi | crcLo => exact respond_withFramer s (c.setSequencer _ _) _ _
  | length => exact respond_withFramer s ((c.setCrc _).setSequencer _ _) _ _

/-- A command that is no bystander depends on the framer alone, and acts on it alone. -/
theorem exec_withFramer {i : Instr} (hi : bystander i = false) :
    exec i (s.withFramer c) = mapNext s.withFramer (exec i c) := by
  cases i with
  | crcInit | crcByte _ =>
    exact whenIdle_withFramer s c (respond_withFramer s (c.setCrc _) _ _)
  | frmClear => exact whenIdle_withFramer s c (respond_withFramer s (c.setPlen _) _ _)
  | frmPush b =>
    have hindex : pushIndex (s.withFramer c).block = pushIndex c.block := rfl
    refine whenIdle_withFramer s c ?_
    rw [hindex]
    cases pushIndex c.block with
    | some j => exact respond_withFramer s ((c.setPbuf j b).setPlen _) _ _
    | none => exact respond_withFramer s (c.setPlen _) _ _
  | frmStart =>
    have hplen : (s.withFramer c).block.plen = c.block.plen := rfl
    refine whenIdle_withFramer s c ?_
    rw [hplen]
    split
    · exact respond_withFramer s c _ _
    · exact respond_withFramer s ((c.setSequencer _ _).setCrc _) _ _
  | frmNext => exact execFrmNext_withFramer s c
  | crcRead | frmStat | timBaud _ | timMult _ | timRdmin | timRdint | timRdchoice _ => cases hi

end

/-- A bystander answers, and leaves the framer as it is. -/
theorem exec_of_bystander {i : Instr} (hi : bystander i = true) (s : State) :
    ∃ t, exec i s = .next t ∧ t.block.framer = s.block.framer := by
  cases i with
  | crcRead | frmStat => exact ⟨_, rfl, rfl⟩
  | timBaud sel =>
    simp only [exec, execTimBaud]
    cases legalSelector sel <;> exact ⟨_, rfl, rfl⟩
  | timMult k =>
    simp only [exec, execTimMult]
    cases legalMultiplier k <;> exact ⟨_, rfl, rfl⟩
  | timRdmin =>
    simp only [exec, execTimRdmin]
    cases s.minint <;> exact ⟨_, rfl, rfl⟩
  | timRdint =>
    simp only [exec, execTimRdint]
    cases s.interval <;> exact ⟨_, rfl, rfl⟩
  | timRdchoice k =>
    simp only [exec, execTimRdchoice]
    cases legalMultiplier k <;> cases s.minint <;> exact ⟨_, rfl, rfl⟩
  | crcInit | crcByte _ | frmClear | frmPush _ | frmStart | frmNext => cases hi

/-! ### Bystanders in a run -/

/-- A run goes on with what its first command leaves. -/
theorem State.run_cons_of_exec {s t : State} {i : Instr} {is : List Instr}
    (h : exec i (s.issue is) = .next t) : s.run (i :: is) = t.run is := by
  obtain ⟨r, ht⟩ := exec_next h
  have hissue : t.issue is = t := by rw [ht]; rfl
  exact State.run_cons (h.trans (by rw [hissue]))

theorem State.exec_of_run_cons {s t : State} {i : Instr} {is : List Instr}
    (h : s.run (i :: is) = .next t) : ∃ u, exec i (s.issue is) = .next u ∧ u.run is = .next t := by
  cases hexec : exec i (s.issue is) with
  | next u => exact ⟨u, rfl, (State.run_cons_of_exec hexec).symm.trans h⟩
  | fault r | refused r =>
    have hstep : core.step (s.issue (i :: is)) = _ := (step_issue_cons s i is).trans hexec
    have hrun : core.run (is.length + 1) (s.issue (i :: is)) = .next t := h
    simp only [Host.Core.run, hstep] at hrun
    cases hrun

theorem State.withFramer_of_framer_eq {s c : State} (h : s.block.framer = c.block.framer) :
    s.withFramer { c with responses := [] } = s := by
  have hblock : { c.block with baudSel := s.block.baudSel, mult := s.block.mult } = s.block :=
    congrArg (fun b => { b with baudSel := s.block.baudSel, mult := s.block.mult }) h.symm
  simp only [State.withFramer, hblock, List.append_nil]

/-- With the same framer a command that is no bystander answers the same and leaves the same framer. -/
theorem exec_of_framer_eq {i : Instr} (hi : bystander i = false) {s c u : State}
    (hf : s.block.framer = c.block.framer) (h : exec i c = .next u) :
    ∃ t r, exec i s = .next t ∧ t.block.framer = u.block.framer ∧
      t.responses = s.responses ++ [r] ∧ u.responses = c.responses ++ [r] := by
  have hs := exec_withFramer s { c with responses := [] } hi
  have hc := exec_withFramer c { c with responses := [] } hi
  rw [State.withFramer_of_framer_eq hf] at hs
  rw [State.withFramer_of_framer_eq rfl, h] at hc
  cases hd : exec i { c with responses := [] } with
  | next d =>
    obtain ⟨r, hr⟩ := exec_next hd
    have hresp : d.responses = [r] := congrArg State.responses hr
    rw [hd] at hs hc
    cases hc
    exact ⟨s.withFramer d, r, hs, rfl, congrArg (s.responses ++ ·) hresp,
      congrArg (c.responses ++ ·) hresp⟩
  | fault _ | refused _ =>
    rw [hd] at hc
    cases hc

/-- What a program's commands other than the bystanders answer. -/
def framerResponses (is : List Instr) (rs : List Response) : List Response :=
  ((is.zip rs).filter fun x => !bystander x.1).map Prod.snd

/-- Where a program runs, it runs with bystanders anywhere in it, with the same answers to its own
commands and the same framer at the end. -/
theorem run_of_run_filter {is : List Instr} {s c d : State} (hf : s.block.framer = c.block.framer)
    (h : c.run (is.filter fun i => !bystander i) = .next d) :
    ∃ t rs, s.run is = .next t ∧ t.block.framer = d.block.framer ∧ t.responses = s.responses ++ rs ∧
      rs.length = is.length ∧ d.responses = c.responses ++ framerResponses is rs := by
  induction is generalizing s c with
  | nil =>
    cases h
    exact ⟨s.issue [], [], rfl, hf, (List.append_nil _).symm, rfl, (List.append_nil _).symm⟩
  | cons i is ih =>
    cases hi : bystander i with
    | true =>
      rw [List.filter_cons_of_neg (by simp [hi])] at h
      obtain ⟨t', hexec, ht'⟩ := exec_of_bystander hi (s.issue is)
      obtain ⟨r, hr⟩ := exec_next hexec
      have hresp : t'.responses = s.responses ++ [r] := congrArg State.responses hr
      obtain ⟨t, rs, hrun, hframer, ht, hlen, hd⟩ := ih (ht'.trans hf) h
      refine ⟨t, r :: rs, (State.run_cons_of_exec hexec).trans hrun, hframer, ?_, ?_, ?_⟩
      · rw [ht, hresp, List.append_assoc, List.singleton_append]
      · rw [List.length_cons, List.length_cons, hlen]
      · simpa [framerResponses, hi] using hd
    | false =>
      rw [List.filter_cons_of_pos (by simp [hi])] at h
      obtain ⟨u, hu, hrest⟩ := State.exec_of_run_cons h
      obtain ⟨t', r, hexec, ht', hresp, huresp⟩ :=
        exec_of_framer_eq (s := s.issue is) (c := c.issue _) hi hf hu
      obtain ⟨t, rs, hrun, hframer, ht, hlen, hd⟩ := ih ht' hrest
      refine ⟨t, r :: rs, (State.run_cons_of_exec hexec).trans hrun, hframer, ?_, ?_, ?_⟩
      · rw [ht, hresp, List.append_assoc, List.singleton_append]
        rfl
      · rw [List.length_cons, List.length_cons, hlen]
      · rw [hd, huresp]
        simp [framerResponses, hi, State.issue]

/-- Settles O31: the frame's own commands run to `framed`, and the bystanders may be inserted. -/
theorem framingTheorem : Obligations.FramingTheorem := by
  intro s p is h hp hfilter
  have hclean : s.run (is.filter fun i => !bystander i) = .next ((s.framed p).issue []) := by
    rw [hfilter]
    exact run_frameScript h hp
  obtain ⟨t, rs, hrun, hframer, ht, hlen, hresp⟩ := run_of_run_filter rfl hclean
  have hpayload := s.clear_pushed_payload hp
  obtain ⟨hcrc, hpbuf, hplen, hphase, hidx⟩ := Block.fields_of_framer_eq hframer
  refine ⟨t, rs, frameResponses p, hrun, ht, hlen, ?_, fun _ => status_of_mem_frameResponses,
    frameResponses_map_frameByte p, frameResponses_map_last p, hphase,
    congrArg Fin.val hidx, ?_, ?_, ?_⟩
  · exact List.append_cancel_left (hresp.symm.trans (s.framed_responses hp))
  · exact (congrArg Fin.val hplen).trans (s.clear_pushed_plen hp)
  · calc t.block.pbufPrefix p.length
      _ = (s.clear.pushed p).block.pbufPrefix p.length := by
        rw [Block.pbufPrefix, hpbuf]
        rfl
      _ = p := by rw [← s.clear_pushed_plen hp, ← Block.payload, hpayload]
  · exact hcrc.trans (congrArg frameChecksum hpayload)

end Sys2Proof.Machine
end

section
/-! The interval functions (44_timing.md R80 to R82, R88). One law carries them: an interval is
long enough exactly when it is at least the minimum. -/

namespace Sys2Proof.Machine

/-- The model's rounding is Mathlib's. -/
theorem ceilDiv_eq (p q : Nat) (h : 0 < q) : ceilDiv p q = p ⌈/⌉ q := by
  rw [ceilDiv, Nat.ceilDiv_eq_add_pred_div, Nat.add_sub_assoc h]

theorem ceilDiv_le_iff {p q n : Nat} (h : 0 < q) : ceilDiv p q ≤ n ↔ p ≤ n * q := by
  rw [ceilDiv_eq p q h, ceilDiv_le_iff_le_mul h, Nat.mul_comm]

theorem maxFrameBits_eq (P : Nat) : maxFrameBits P = (5 + 1 + 1 + P + 2) * 8 := rfl

/-- The guard needs no rounding: a frame has an even number of bits (R81). -/
theorem two_mul_guardBits (P : Nat) : 2 * guardBits P = 3 * maxFrameBits P := by
  simp only [guardBits, ceilDiv, Config.guardNum, Config.guardDen, maxFrameBits_eq]
  omega

theorem maxFrameBits_add_guardBits (P : Nat) : maxFrameBits P + guardBits P = 20 * (9 + P) := by
  have hframe := maxFrameBits_eq P
  have hguard := two_mul_guardBits P
  omega

/-- The frame and its guard fit in `n` milliseconds exactly when `n` is at least the minimum (R81). -/
theorem minIntervalFor_le_iff {P baud n : Nat} (h : 0 < baud) :
    minIntervalFor P baud ≤ n ↔ 20 * (9 + P) * 1000 ≤ n * baud := by
  rw [minIntervalFor, ceilDiv_le_iff h, maxFrameBits_add_guardBits]

theorem le_minIntervalFor_mul {P baud : Nat} (h : 0 < baud) :
    20 * (9 + P) * 1000 ≤ minIntervalFor P baud * baud := (minIntervalFor_le_iff h).1 le_rfl

/-- What is long enough at a rate is long enough at a higher one (R88). -/
theorem minIntervalFor_le_of_le (P : Nat) {baud baud' : Nat} (h : 0 < baud) (hle : baud ≤ baud') :
    minIntervalFor P baud' ≤ minIntervalFor P baud :=
  (minIntervalFor_le_iff (h.trans_le hle)).2
    ((le_minIntervalFor_mul h).trans (Nat.mul_le_mul_left _ hle))

/-- No frame fits in no time (R88). -/
theorem minIntervalFor_pos (P : Nat) {baud : Nat} (h : 0 < baud) : 0 < minIntervalFor P baud := by
  rw [← not_le, minIntervalFor_le_iff h]
  omega

theorem minInterval_mul_baudOf (r : Fin 6) : minInterval r * baudOf r = 5280000 := by
  revert r
  decide

theorem baudOf_lt_baudOf {r r' : Fin 6} : r < r' → baudOf r < baudOf r' := by
  revert r r'
  decide

theorem baudOf_ge (r : Fin 6) : 600 ≤ baudOf r := by
  revert r
  decide

/-- The divisions are exact (R82), so a higher rate has a shorter minimum. -/
theorem minInterval_lt_minInterval {r r' : Fin 6} (h : r < r') : minInterval r' < minInterval r := by
  have hpos : 0 < minInterval r := minIntervalFor_pos _ (Nat.lt_of_lt_of_le (by decide) (baudOf_ge r))
  refine Nat.lt_of_mul_lt_mul_right (a := baudOf r') ?_
  calc minInterval r' * baudOf r'
    _ = minInterval r * baudOf r := by rw [minInterval_mul_baudOf, minInterval_mul_baudOf]
    _ < minInterval r * baudOf r' := Nat.mul_lt_mul_of_pos_left (baudOf_lt_baudOf h) hpos

/-- The greatest minimum is that of the longest payload at the lowest rate (R82). -/
theorem minIntervalFor_baudOf_le (P : Fin 256) (r : Fin 6) :
    minIntervalFor P.val (baudOf r) ≤ 8800 := by
  have hrate := baudOf_ge r
  rw [minIntervalFor_le_iff (by omega)]
  omega

/-- The greatest interval of the table of R82 bounds every legal multiple. -/
theorem mul_minIntervalFor_baudOf_le {k : Nat} (hk : k ≤ 10) (P : Fin 256) (r : Fin 6) :
    k * minIntervalFor P.val (baudOf r) ≤ 88000 :=
  Nat.mul_le_mul hk (minIntervalFor_baudOf_le P r)

/-- Settles O37: the frame and its guard counted in bits, and the law of the minimum both ways. -/
theorem minIntervalIsLeast : Obligations.MinIntervalIsLeast := fun P _ h =>
  ⟨maxFrameBits_eq P, two_mul_guardBits P, maxFrameBits_add_guardBits P, le_minIntervalFor_mul h,
    fun _ => (minIntervalFor_le_iff h).2⟩

/-- Settles O38: the law of the minimum at the two rates; for the six rates, that the divisions are
exact. -/
theorem minIntervalIsMonotoneAndPositive : Obligations.MinIntervalIsMonotoneAndPositive :=
  ⟨fun P _ _ h hle => ⟨minIntervalFor_le_of_le P h hle, minIntervalFor_pos P (h.trans_le hle)⟩,
    fun _ _ => minInterval_lt_minInterval⟩

/-- Settles O39: the numbers of the table are evaluated. -/
theorem minIntervalTable : Obligations.MinIntervalTable :=
  ⟨by decide, by decide, minInterval_mul_baudOf, by decide⟩

end Sys2Proof.Machine
end

section
/-! The commands of the TIM unit (44_timing.md R83 to R87), each alone. -/

namespace Sys2Proof.Machine

/-! ### The selectors -/

theorem exec_timBaud_of_lt {sel : BitVec 3} (h : sel.toNat < 6) (s : State) :
    exec (.timBaud sel) s = .next { s with
      block := { s.block with baudSel := .selected ⟨sel.toNat, h⟩ },
      responses := s.responses ++ [⟨.ok, 0⟩] } := by
  simp only [exec, execTimBaud, legalSelector_of_lt h]
  rfl

theorem exec_timBaud_of_le {sel : BitVec 3} (h : 6 ≤ sel.toNat) (s : State) :
    exec (.timBaud sel) s = .next { s with
      responses := s.responses ++ [⟨.error .inputRange, 0⟩] } := by
  simp only [exec, execTimBaud, legalSelector_of_le h, raise_eq]

theorem exec_timMult_of_mem {k : BitVec 4} (h1 : 1 ≤ k.toNat) (h2 : k.toNat ≤ 10) (s : State) :
    exec (.timMult k) s = .next { s with
      block := { s.block with mult := ⟨k.toNat, by omega⟩ },
      responses := s.responses ++ [⟨.ok, 0⟩] } := by
  simp only [exec, execTimMult, legalMultiplier_of_mem h1 h2]
  rfl

theorem exec_timMult_of_not_mem {k : BitVec 4} (h : k.toNat = 0 ∨ 11 ≤ k.toNat) (s : State) :
    exec (.timMult k) s = .next { s with
      responses := s.responses ++ [⟨.error .inputRange, 0⟩] } := by
  simp only [exec, execTimMult, legalMultiplier_of_not_mem h, raise_eq]

/-! ### The intervals of the selected rate -/

theorem State.minint_of_selected {s : State} {r : Fin 6} (h : s.block.baudSel = .selected r) :
    s.minint = some (minIntervalFor s.maxPayloadBytes.val (baudOf r)) := by
  simp only [State.minint, h, BaudSel.rate, Option.map_some]

theorem State.minint_of_unselected {s : State} (h : s.block.baudSel = .unselected) :
    s.minint = none := by
  simp only [State.minint, h, BaudSel.rate, Option.map_none]

theorem State.interval_of_selected {s : State} {r : Fin 6} (h : s.block.baudSel = .selected r)
    (hm : s.block.mult.val ≠ 0) :
    s.interval = some (s.block.mult.val * minIntervalFor s.maxPayloadBytes.val (baudOf r)) := by
  have hne : s.block.mult ≠ 0 := fun h0 => hm (congrArg Fin.val h0)
  rw [State.interval, if_neg hne, State.minint_of_selected h, Option.map_some]

theorem State.interval_of_unselected {s : State}
    (h : s.block.baudSel = .unselected ∨ s.block.mult.val = 0) : s.interval = none := by
  obtain hrate | hmult := h
  · rw [State.interval, State.minint_of_unselected hrate, Option.map_none, ite_self]
  · exact if_pos (Fin.ext hmult)

/-- The zero-extension of R85 to R87 loses nothing: no interval is over 88000 (R82). -/
theorem respondInterval_some_of_le {n : Nat} (h : n ≤ 88000) (s : State) :
    ∃ d : ResponseData, d.toNat = n ∧
      respondInterval (some n) s = .next { s with responses := s.responses ++ [⟨.ok, d⟩] } :=
  ⟨BitVec.ofNat 32 n, (BitVec.toNat_ofNat ..).trans (Nat.mod_eq_of_lt (by omega)), rfl⟩

theorem respondInterval_none (s : State) :
    respondInterval none s = .next { s with
      responses := s.responses ++ [⟨.error .notConfigured, 0⟩] } := rfl

/-! ### The reads -/

theorem exec_timRdmin (s : State) : exec .timRdmin s = respondInterval s.minint s := rfl

theorem exec_timRdint (s : State) : exec .timRdint s = respondInterval s.interval s := rfl

theorem exec_timRdchoice_of_mem {k : BitVec 4} (h1 : 1 ≤ k.toNat) (h2 : k.toNat ≤ 10) (s : State) :
    exec (.timRdchoice k) s = respondInterval (s.minint.map (k.toNat * ·)) s := by
  simp only [exec, execTimRdchoice, legalMultiplier_of_mem h1 h2]

theorem exec_timRdchoice_of_not_mem {k : BitVec 4} (h : k.toNat = 0 ∨ 11 ≤ k.toNat) (s : State) :
    exec (.timRdchoice k) s = .next { s with
      responses := s.responses ++ [⟨.error .inputRange, 0⟩] } := by
  simp only [exec, execTimRdchoice, legalMultiplier_of_not_mem h, raise_eq]

/-! ### The statements -/

/-- Settles O40: the operand is legal up to 5. -/
theorem timBaudSelectsRate : Obligations.TimBaudSelectsRate :=
  ⟨fun _ => rfl, fun _ s =>
    ⟨fun h => ⟨_, rfl, exec_timBaud_of_lt (Nat.lt_succ_of_le h) s⟩, fun h => exec_timBaud_of_le h s⟩⟩

/-- Settles O41: the operand is legal from 1 to 10. -/
theorem timMultSelectsMultiple : Obligations.TimMultSelectsMultiple :=
  ⟨fun _ => rfl, fun _ s =>
    ⟨fun h1 h2 => ⟨_, rfl, exec_timMult_of_mem h1 h2 s⟩, fun h => exec_timMult_of_not_mem h s⟩⟩

/-- Settles O42: `MININT` is there with the rate, and fits the response. -/
theorem timRdminReadsMinimum : Obligations.TimRdminReadsMinimum := by
  refine ⟨rfl, fun s => ⟨fun r hr => ?_, fun hr => ?_⟩⟩ <;> rw [exec_timRdmin]
  · rw [State.minint_of_selected hr]
    exact respondInterval_some_of_le ((minIntervalFor_baudOf_le _ r).trans (by decide)) s
  · rw [State.minint_of_unselected hr, respondInterval_none]

/-- Settles O43: `INTERVAL` is there with the rate and the multiple, and fits the response. -/
theorem timRdintReadsChosenInterval : Obligations.TimRdintReadsChosenInterval := by
  refine ⟨rfl, fun s => ⟨fun r hr hm => ?_, fun h => ?_⟩⟩ <;> rw [exec_timRdint]
  · have hle := mul_minIntervalFor_baudOf_le (Nat.le_of_lt_succ s.block.mult.isLt) s.maxPayloadBytes r
    obtain ⟨d, hd, hrespond⟩ := respondInterval_some_of_le hle s
    rw [State.interval_of_selected hr hm]
    exact ⟨d, hd, hd.trans_le hle, hrespond⟩
  · rw [State.interval_of_unselected h, respondInterval_none]

/-- Settles O44: the operand is looked at before the rate. -/
theorem timRdchoiceReadsMultiple : Obligations.TimRdchoiceReadsMultiple := by
  refine ⟨fun _ => rfl, fun k s => ⟨fun h => exec_timRdchoice_of_not_mem h s, fun h1 h2 => ?_⟩⟩
  rw [exec_timRdchoice_of_mem h1 h2]
  refine ⟨fun r hr => ?_, fun hr => ?_⟩
  · rw [State.minint_of_selected hr, Option.map_some]
    exact respondInterval_some_of_le (mul_minIntervalFor_baudOf_le h2 _ r) s
  · rw [State.minint_of_unselected hr, Option.map_none, respondInterval_none]

end Sys2Proof.Machine
end

section
/-! Words that match no row of the opcode map (60_exceptions.md R101): such a word does not decode, and
its two fields say why. -/

namespace Sys2Proof

theorem Mnemonic.mem_all (m : Mnemonic) : m ∈ Mnemonic.all := by cases m <;> decide

theorem opcodeRow_mem_opcodeTable (m : Mnemonic) : opcodeRow m ∈ opcodeTable :=
  List.mem_map_of_mem m.mem_all

theorem decode_ne_ok_of_selects_eq_false {w : CommandWord}
    (h : ∀ r ∈ opcodeTable, r.selects w = false) (i : Instr) : decode w ≠ .ok i := by
  intro hi
  have hselects : (opcodeRow i.mnemonic).selects w = true := beq_of_eq (decode_eq_ok_iff_mask.mp hi).1
  exact absurd hselects (Bool.eq_false_iff.mp (h _ (opcodeRow_mem_opcodeTable _)))

/-- A word is its two fields (R40). -/
theorem eq_iff_fields {v w : CommandWord} :
    v = w ↔ opField v = opField w ∧ argField v = argField w := by
  refine ⟨fun h => h ▸ ⟨rfl, rfl⟩, fun ⟨hop, harg⟩ => BitVec.eq_of_toNat_eq ?_⟩
  rw [toNat_word v, toNat_word w, hop, harg]

/-- A row of the opcode map asks for its opcode and for zeros in the bits of `arg` that it does not use
(R42). -/
theorem opcodeRow_selects_iff (m : Mnemonic) (w : CommandWord) :
    (opcodeRow m).selects w = true ↔
      opField (opcodeRow m).matchBits = opField w ∧
        argField (opcodeRow m).mask &&& argField w = 0 := by
  have hop : opField (opcodeRow m).mask = BitVec.allOnes 4 := by cases m <;> rfl
  have harg : argField (opcodeRow m).matchBits = 0 := by cases m <;> rfl
  have hand : opField (w &&& (opcodeRow m).mask) = opField w := by
    rw [opField, BitVec.extractLsb'_and, ← opField, ← opField, hop, BitVec.and_allOnes]
  rw [OpcodeRow.selects, beq_iff_eq, eq_iff_fields, hand, harg, eq_comm, argField,
    BitVec.extractLsb'_and, BitVec.and_comm]
  rfl

theorem opcode_reserved_or_of_row (op : BitVec 4) :
    op = 0x0 ∨ op = 0xE ∨ op = 0xF ∨ ∃ m ∈ Mnemonic.all, opField (opcodeRow m).matchBits = op := by
  revert op
  decide

/-- Why no row is selected (R101): the opcode has no row, or its row is refused by the rest of `arg`. -/
theorem reserved_or_unusedBitsSet_of_selects_eq_false {w : CommandWord}
    (h : ∀ r ∈ opcodeTable, r.selects w = false) :
    opField w = 0x0 ∨ opField w = 0xE ∨ opField w = 0xF ∨
      ∃ r ∈ opcodeTable, opField r.matchBits = opField w ∧ argField r.mask &&& argField w ≠ 0 := by
  obtain h0 | hE | hF | ⟨m, -, hm⟩ := opcode_reserved_or_of_row (opField w)
  · exact .inl h0
  · exact .inr (.inl hE)
  · exact .inr (.inr (.inl hF))
  · have hmem := opcodeRow_mem_opcodeTable m
    refine .inr (.inr (.inr ⟨opcodeRow m, hmem, hm, fun hzero => ?_⟩))
    have hselects := (opcodeRow_selects_iff m w).mpr ⟨hm, hzero⟩
    exact absurd hselects (Bool.eq_false_iff.mp (h _ hmem))

namespace Machine

theorem runCommand_of_decode_ok {w : CommandWord} {i : Instr} (h : decode w = .ok i) (s : State) :
    runCommand w s = exec i s := by
  simp only [runCommand, h]

theorem runCommand_of_decode_ne_ok {w : CommandWord} (h : ∀ i, decode w ≠ .ok i) (s : State) :
    runCommand w s = raise .illegalCommand s := by
  unfold runCommand
  split
  case h_1 i hi => exact absurd hi (h i)
  case h_2 => rfl

/-- Settles O7: a word that selects no row does not decode, so the step raises `IllegalCommand`. -/
theorem illegalWordAnswersIllegalCommand : Obligations.IllegalWordAnswersIllegalCommand := by
  refine ⟨rfl, fun s w rest hin hrows => ⟨?_, reserved_or_unusedBitsSet_of_selects_eq_false hrows⟩⟩
  rw [step_of_inputs hin]
  exact runCommand_of_decode_ne_ok (decode_ne_ok_of_selects_eq_false hrows) _

end Machine
end Sys2Proof
end

section
/-! The order of the errors (60_exceptions.md R109): at each level of the order, what a command answers
when that level applies and none above it does. -/

namespace Sys2Proof.Machine

/-- A command that starts in `s` and ends in `k` answers once, with the status `st` (R41). -/
def Reports (st : Status) (s : State) (k : Result) : Prop :=
  ∃ t d, k = .next t ∧ t.responses = s.responses ++ [⟨st, d⟩]

theorem Reports.status_eq {st : Status} {s t : State} {r : Response} (h : Reports st s (.next t))
    (hr : t.responses = s.responses ++ [r]) : r.status = st := by
  obtain ⟨u, d, hu, hresp⟩ := h
  cases hu
  have hsingle : [r] = [⟨st, d⟩] := List.append_cancel_left (hr.symm.trans hresp)
  exact congrArg Response.status (List.singleton_inj.mp hsingle)

section
variable {s : State}

theorem reports_raise (e : ErrorCause) (s : State) : Reports (.error e) s (raise e s) :=
  ⟨_, 0, rfl, rfl⟩

theorem reports_next (st : Status) (d : ResponseData) (b : Block) :
    Reports st s (.next { s with block := b, responses := s.responses ++ [⟨st, d⟩] }) :=
  ⟨_, d, rfl, rfl⟩

/-! ### The errors, level by level -/

theorem exec_of_disturbsFrame {i : Instr} (hi : disturbsFrame i = true)
    (h : s.block.phase ≠ .idle) : exec i s = raise .busy s := by
  cases i with
  | crcInit | crcByte _ | frmClear | frmPush _ | frmStart => exact whenIdle_busy h _
  | crcRead | frmNext | frmStat | timBaud _ | timMult _ | timRdmin | timRdint | timRdchoice _ =>
    cases hi

theorem exec_of_operandOutOfRange {i : Instr} (hi : operandOutOfRange i) (s : State) :
    exec i s = raise .inputRange s := by
  cases i with
  | timBaud sel => exact exec_timBaud_of_le hi s
  | timMult k => exact exec_timMult_of_not_mem hi s
  | timRdchoice k => exact exec_timRdchoice_of_not_mem hi s
  | crcInit | crcByte _ | crcRead | frmClear | frmPush _ | frmStart | frmNext | frmStat | timRdmin
  | timRdint => cases hi

theorem mem_range_of_not_operandOutOfRange {k : BitVec 4} (h : ¬(k.toNat = 0 ∨ 11 ≤ k.toNat)) :
    1 ≤ k.toNat ∧ k.toNat ≤ 10 := by omega

theorem exec_of_needsSelector {i : Instr} (hrange : ¬ operandOutOfRange i)
    (hi : needsSelector s.block i) : exec i s = raise .notConfigured s := by
  cases i with
  | timRdmin => rw [exec_timRdmin, State.minint_of_unselected hi]; rfl
  | timRdint => rw [exec_timRdint, State.interval_of_unselected hi]; rfl
  | timRdchoice k =>
    obtain ⟨h1, h2⟩ := mem_range_of_not_operandOutOfRange hrange
    rw [exec_timRdchoice_of_mem h1 h2, State.minint_of_unselected hi]
    rfl
  | crcInit | crcByte _ | crcRead | frmClear | frmPush _ | frmStart | frmNext | frmStat | timBaud _
  | timMult _ => cases hi

/-! ### No error -/

theorem BaudSel.exists_of_ne_unselected {r : BaudSel} (h : r ≠ .unselected) :
    ∃ x, r = .selected x := by
  cases r with
  | unselected => exact absurd rfl h
  | selected x => exact ⟨x, rfl⟩

theorem reports_ok_respondInterval_some (n : Nat) : Reports .ok s (respondInterval (some n) s) :=
  reports_next .ok _ s.block

/-- A frame in progress gives its next byte (R120). -/
theorem reports_ok_frmNext (hr : Reachable s.block) (h : s.block.phase ≠ .idle) :
    Reports .ok s (exec .frmNext s) := by
  cases hp : s.block.phase with
  | idle => exact absurd hp h
  | preamble =>
    obtain hlt | hlast := (hr.preambleIdx hp).lt_or_eq
    · rw [exec_frmNext_preamble (i := ⟨s.block.idx.val + 1, by omega⟩) hp hlt rfl]
      exact reports_next ..
    · rw [exec_frmNext_preamble_last hp hlast]
      exact reports_next ..
  | sync => rw [exec_frmNext_sync hp]; exact reports_next ..
  | length => rw [exec_frmNext_length hp]; exact reports_next ..
  | payload =>
    have hidx := hr.payloadIdx hp
    have hplen := hr.busyPlen h
    by_cases hlast : s.block.idx.val + 1 = s.block.plen.val
    · rw [exec_frmNext_payload_last hp hlast]
      exact reports_next ..
    · rw [exec_frmNext_payload (i := ⟨s.block.idx.val + 1, by omega⟩) hp hlast rfl]
      exact reports_next ..
  | crcHi => rw [exec_frmNext_crcHi hp]; exact reports_next ..
  | crcLo => rw [exec_frmNext_crcLo hp]; exact reports_next ..

theorem reports_ok_exec {i : Instr} (hr : Reachable s.block)
    (hbusy : ¬(disturbsFrame i = true ∧ s.block.phase ≠ .idle)) (hrange : ¬ operandOutOfRange i)
    (hlarge : ¬(i = .frmStart ∧ s.block.plen.val = 256)) (hsel : ¬ needsSelector s.block i)
    (hnoFrame : ¬(i = .frmNext ∧ s.block.phase = .idle)) : Reports .ok s (exec i s) := by
  have hidle (hd : disturbsFrame i = true) : s.block.phase = .idle :=
    by_contra fun h => hbusy ⟨hd, h⟩
  cases i with
  | crcInit => rw [exec_crcInit_of_idle (hidle rfl)]; exact reports_next ..
  | crcByte b => rw [exec_crcByte_of_idle (hidle rfl)]; exact reports_next ..
  | frmClear => rw [exec_frmClear_of_idle (hidle rfl)]; exact reports_next ..
  | frmPush b => rw [exec_frmPush_of_idle (hidle rfl)]; exact reports_next ..
  | frmStart =>
    have hne : s.block.plen.val ≠ 256 := fun h => hlarge ⟨rfl, h⟩
    rw [exec_frmStart_of_idle (hidle rfl) (by omega)]
    exact reports_next ..
  | crcRead | frmStat => exact reports_next .ok _ s.block
  | frmNext => exact reports_ok_frmNext hr fun h => hnoFrame ⟨rfl, h⟩
  | timBaud sel => rw [exec_timBaud_of_lt (Nat.lt_of_not_le hrange)]; exact reports_next ..
  | timMult k =>
    obtain ⟨h1, h2⟩ := mem_range_of_not_operandOutOfRange hrange
    rw [exec_timMult_of_mem h1 h2]
    exact reports_next ..
  | timRdmin =>
    obtain ⟨x, hx⟩ := BaudSel.exists_of_ne_unselected hsel
    rw [exec_timRdmin, State.minint_of_selected hx]
    exact reports_ok_respondInterval_some _
  | timRdint =>
    obtain ⟨hrate, hmult⟩ := not_or.mp hsel
    obtain ⟨x, hx⟩ := BaudSel.exists_of_ne_unselected hrate
    rw [exec_timRdint, State.interval_of_selected hx hmult]
    exact reports_ok_respondInterval_some _
  | timRdchoice k =>
    obtain ⟨h1, h2⟩ := mem_range_of_not_operandOutOfRange hrange
    obtain ⟨x, hx⟩ := BaudSel.exists_of_ne_unselected hsel
    rw [exec_timRdchoice_of_mem h1 h2, State.minint_of_selected hx]
    exact reports_ok_respondInterval_some _

end

/-- Settles O9: the word has one response (R41), whose status each level of the order determines. -/
theorem errorPriority : Obligations.ErrorPriority := by
  intro s w rest hr hin
  obtain ⟨t, r, hstep, -, hresp, -⟩ := everyWordProducesOneResponse s w rest hr hin
  have hrun : runCommand w { s with inputs := rest } = .next t := (step_of_inputs hin).symm.trans hstep
  refine ⟨t, r, hstep, hresp, fun hillegal => ?_, fun i hi => ?_⟩
  · rw [runCommand_of_decode_ne_ok hillegal] at hrun
    exact (hrun ▸ reports_raise _ _).status_eq hresp
  rw [runCommand_of_decode_ok hi] at hrun
  have status_eq {st : Status} (h : Reports st s (exec i { s with inputs := rest })) :
      r.status = st := (hrun ▸ h).status_eq hresp
  have raised {e : ErrorCause}
      (h : exec i { s with inputs := rest } = raise e { s with inputs := rest }) :
      r.status = .error e := status_eq (h ▸ reports_raise e _)
  refine ⟨fun ⟨hd, hb⟩ => raised (exec_of_disturbsFrame hd hb), fun hbusy => ⟨fun hrange => ?_, ?_,
    fun hrange hlarge => ⟨fun hsel => ?_, ?_, fun hsel hnoFrame => ?_⟩⟩⟩
  · exact raised (exec_of_operandOutOfRange hrange _)
  · rintro ⟨rfl, hlarge⟩
    have hidle : s.block.phase = .idle := by_contra fun h => hbusy ⟨rfl, h⟩
    exact raised (exec_frmStart_of_oversize hidle hlarge)
  · exact raised (exec_of_needsSelector hrange hsel)
  · rintro ⟨rfl, hidle⟩
    exact raised (exec_frmNext_idle hidle)
  · exact status_eq (reports_ok_exec hr hbusy hrange hlarge hsel hnoFrame)

end Sys2Proof.Machine
end

section
/-! Reset (70_reset_and_hazards.md R115, R116): the block it leads to, and what that block answers
first. -/

namespace Sys2Proof.Machine

/-- The code 7 is that of no rate (10_state.md R16). -/
theorem BaudSel.eq_unselected_of_code {r : BaudSel} (h : (baudSelCode r).toNat = 7) :
    r = .unselected := by
  cases r with
  | unselected => rfl
  | selected x =>
    revert x
    decide

theorem step_of_reset {s : State} {rest : List Input} (h : s.inputs = .reset :: rest) :
    step s = .next { s with block := Block.reset, inputs := rest } := step_of_inputs h

theorem fresh_reset : Fresh Block.reset := ⟨rfl, rfl, rfl, rfl, rfl, rfl⟩

theorem exec_frmStat (s : State) :
    exec .frmStat s = .next { s with responses := s.responses ++ [⟨.ok, s.block.statusData⟩] } := rfl

/-- The three fields of a response of `FRM.STAT` are 0 in the reset state (43_framer.md R71). -/
theorem Fresh.statusData_eq_zero {b : Block} (h : Fresh b) : b.statusData = 0 := by
  obtain ⟨-, hplen, hphase, hidx, -, -⟩ := h
  have hplen : plenCode b.plen = 0 := BitVec.eq_of_toNat_eq ((plenCode_toNat _).trans hplen)
  have hidx : idxCode b.idx = 0 := BitVec.eq_of_toNat_eq ((idxCode_toNat _).trans hidx)
  rw [Block.statusData, hplen, hphase, hidx]
  rfl

/-- Settles O14: reset gives `Block.reset`; each first response is the command's rule in `IDLE`, with
no payload and with neither selector set. -/
theorem firstResponsesAfterReset : Obligations.FirstResponsesAfterReset := by
  refine ⟨fun s rest hin => ⟨_, step_of_reset hin, fresh_reset⟩, fun s hfresh => ?_⟩
  have hstatus := hfresh.statusData_eq_zero
  obtain ⟨hcrc, hplen, hphase, -, hbaud, -⟩ := hfresh
  have hrate : s.block.baudSel = .unselected := BaudSel.eq_unselected_of_code hbaud
  refine ⟨?crcRead, ?frmStat, exec_frmNext_idle hphase,
    ⟨_, exec_frmStart_of_idle hphase (by omega), rfl, rfl⟩, ?timRdmin, ?timRdint⟩
  case crcRead =>
    rw [exec_crcRead, State.readCrc, crcResult_eq, hcrc]
    rfl
  case frmStat => rw [exec_frmStat, hstatus]
  case timRdmin => rw [exec_timRdmin, State.minint_of_unselected hrate, respondInterval_none]
  case timRdint =>
    rw [exec_timRdint, State.interval_of_unselected (.inl hrate), respondInterval_none]

end Sys2Proof.Machine
end

section
/-! A command is a mnemonic and an operand of the width of its field (30_encoding.md R42, R43): so the
commands are counted row by row, and a well-formed assembly line (R47) stands for one. -/

namespace Sys2Proof

/-- Settles O3, by the two directions of `decode_eq_ok_iff`. -/
theorem decodeAndEncodeAgree : Obligations.DecodeAndEncodeAgree :=
  ⟨decode_encode, fun _ _ => encode_of_decode_eq_ok⟩

/-- Settles O1: the nine words are decoded. -/
theorem specWordsDecode : Obligations.SpecWordsDecode := by
  unfold Obligations.SpecWordsDecode
  decide

/-! ### Commands as mnemonics with operands -/

/-- The operand of a command, at the width of its field (`operandBitsOf_command`). -/
def Instr.operand : (i : Instr) → BitVec i.mnemonic.operandBits
  | .crcByte b | .frmPush b => b
  | .timBaud s => s
  | .timMult k | .timRdchoice k => k
  | .crcInit | .crcRead | .frmClear | .frmStart | .frmNext | .frmStat | .timRdmin | .timRdint => 0#0

/-- The command of a mnemonic and an operand (`Instr.equivOperand`). -/
def Mnemonic.command : (m : Mnemonic) → BitVec m.operandBits → Instr
  | .crcInit, _ => .crcInit
  | .crcByte, b => .crcByte b
  | .crcRead, _ => .crcRead
  | .frmClear, _ => .frmClear
  | .frmPush, b => .frmPush b
  | .frmStart, _ => .frmStart
  | .frmNext, _ => .frmNext
  | .frmStat, _ => .frmStat
  | .timBaud, s => .timBaud s
  | .timMult, k => .timMult k
  | .timRdmin, _ => .timRdmin
  | .timRdint, _ => .timRdint
  | .timRdchoice, k => .timRdchoice k

@[simp] theorem Mnemonic.mnemonic_command (m : Mnemonic) (x : BitVec m.operandBits) :
    (m.command x).mnemonic = m := by cases m <;> rfl

/-- Every command is one mnemonic with one operand. -/
def Instr.equivOperand : Instr ≃ (m : Mnemonic) × BitVec m.operandBits where
  toFun i := ⟨i.mnemonic, i.operand⟩
  invFun x := x.1.command x.2
  left_inv i := by cases i <;> rfl
  right_inv := by
    rintro ⟨m, x⟩
    cases m with
    | crcByte | frmPush | timBaud | timMult | timRdchoice => rfl
    | crcInit | crcRead | frmClear | frmStart | frmNext | frmStat | timRdmin | timRdint =>
      exact congrArg (Sigma.mk _) (BitVec.of_length_zero (x := x)).symm

/-! ### The count (R44) -/

theorem finite_bitVec (n : Nat) : Finite (BitVec n) := Finite.of_equiv _ BitVec.equivFin.symm.toEquiv

theorem card_bitVec (n : Nat) : Nat.card (BitVec n) = 2 ^ n := by
  rw [Nat.card_congr BitVec.equivFin.toEquiv, Nat.card_fin]

/-- Each row has a command for each value of its operand field: 8 without operand, 2 × 256 with a byte,
8 rates and 2 × 16 multiples. -/
theorem card_instr : Nat.card Instr = 560 := by
  let _ : Fintype Mnemonic := ⟨⟨Mnemonic.all, by decide⟩, Mnemonic.mem_all⟩
  have hfinite (m : Mnemonic) : Finite (BitVec m.operandBits) := finite_bitVec _
  rw [Nat.card_congr Instr.equivOperand, Nat.card_sigma]
  simp only [card_bitVec]
  rfl

/-- The legal words are the encodings, one for each command. -/
theorem card_legal : Nat.card { w : CommandWord // ∃ i, decode w = .ok i } = 560 := by
  rw [← card_instr]
  refine (Nat.card_eq_of_bijective (fun i => ⟨encode i, i, decode_encode i⟩) ⟨?_, ?_⟩).symm
  · intro i j h
    have hword : encode i = encode j := congrArg Subtype.val h
    have hdecode := decode_encode i
    rw [hword, decode_encode] at hdecode
    exact (Except.ok.inj hdecode).symm
  · rintro ⟨w, i, hi⟩
    exact ⟨i, Subtype.ext (encode_of_decode_eq_ok hi)⟩

/-- Settles O4: the legal words are counted, and the others are the rest of the 16-bit words. -/
theorem legalWordsNumberFiveHundredSixty : Obligations.LegalWordsNumberFiveHundredSixty := by
  classical
  refine ⟨card_legal, ?_⟩
  have := finite_bitVec 16
  have hall := Nat.card_congr (Equiv.sumCompl fun w : CommandWord => ∃ i, decode w = .ok i)
  rw [Nat.card_sum, card_legal, card_bitVec] at hall
  omega

/-! ### Assembly lines (R47) -/

/-- The encoding of a command shows its opcode and its operand. -/
theorem fields_encode (i : Instr) :
    opField (encode i) = opField (opcodeRow i.mnemonic).matchBits ∧
      (argField (encode i)).toNat = (operandBitsOf i).toNat := by
  revert i
  rw [Instr.forall_iff]
  decide

theorem operandBitsOf_command (m : Mnemonic) (x : BitVec m.operandBits) :
    (operandBitsOf (m.command x)).toNat = x.toNat := by
  have hx := x.isLt
  cases m with
  | crcByte | frmPush | timBaud | timMult | timRdchoice =>
    exact (BitVec.toNat_setWidth ..).trans (Nat.mod_eq_of_lt (hx.trans_le (by decide)))
  | crcInit | crcRead | frmClear | frmStart | frmNext | frmStat | timRdmin | timRdint =>
    exact (Nat.lt_one_iff.1 hx).symm

theorem AsmLine.operand_lt {l : AsmLine} (h : l.wellFormed = true) :
    l.operand.getD 0 < 2 ^ l.mnemonic.operandBits := by
  unfold AsmLine.wellFormed at h
  cases hop : l.operand with
  | none => exact Nat.two_pow_pos _
  | some n => simp only [hop, Bool.and_eq_true, decide_eq_true_eq] at h; exact h.2

theorem AsmLine.toInstr_of_wellFormed {l : AsmLine} (h : l.wellFormed = true) :
    l.toInstr = some (l.mnemonic.command (BitVec.ofNat _ (l.operand.getD 0))) := by
  rw [AsmLine.toInstr, if_pos h]
  obtain ⟨m, o⟩ := l
  cases m <;> rfl

/-- Settles O5: a well-formed line stands for its mnemonic with its operand, which fits the field. -/
theorem assemblyLineEncodesOpcodeAndOperand : Obligations.AssemblyLineEncodesOpcodeAndOperand := by
  intro l
  refine ⟨fun h => if_neg (by simp [h]), fun h => ⟨_, AsmLine.toInstr_of_wellFormed h, ?_⟩⟩
  obtain ⟨hop, harg⟩ := fields_encode (l.mnemonic.command (BitVec.ofNat _ (l.operand.getD 0)))
  rw [Mnemonic.mnemonic_command] at hop
  refine ⟨Mnemonic.mnemonic_command _ _, ?_, hop⟩
  rw [harg, operandBitsOf_command, BitVec.toNat_ofNat, Nat.mod_eq_of_lt (AsmLine.operand_lt h)]

end Sys2Proof
end

section
/-! What each command may write of the block (10_state.md R10, R11 to R17), and what follows for each
register: it is left alone by all other commands. -/

namespace Sys2Proof.Machine

/-- What a command that gives a next state may have written: nothing, or what its rule says. Of
`FRM.NEXT` only the registers are told; the values are those of `exec_frmNext_emitted`. -/
inductive Writes (b : Block) : Instr → Block → Prop
  | nothing (i : Instr) : Writes b i b
  | crcInit (h : b.phase = .idle) : Writes b .crcInit { b with crc := 0xFFFF }
  | crcByte (h : b.phase = .idle) (v : Byte) :
    Writes b (.crcByte v) { b with crc := Machine.crcByte b.crc v }
  | frmClear (h : b.phase = .idle) : Writes b .frmClear { b with plen := 0 }
  | frmPush (h : b.phase = .idle) (v : Byte) : Writes b (.frmPush v) (b.push v)
  | frmStart (h : b.phase = .idle) (hp : b.plen.val ≤ 255) :
    Writes b .frmStart { b with phase := .preamble, idx := 0, crc := 0xFFFF }
  | frmNext (h : b.phase ≠ .idle) (c : CrcWord) (p : Phase) (i : Fin 255)
    (hc : b.phase ≠ .length → b.phase ≠ .payload → c = b.crc) :
    Writes b .frmNext { b with crc := c, phase := p, idx := i }
  | timBaud (sel : BitVec 3) (r : Fin 6) : Writes b (.timBaud sel) { b with baudSel := .selected r }
  | timMult (k : BitVec 4) (m : Fin 11) (h : m ≠ 0) : Writes b (.timMult k) { b with mult := m }

section
variable {s t : State}

theorem whenIdle_writes {i : Instr} {k : Result} (h : whenIdle s k = .next t)
    (hk : s.block.phase = .idle → k = .next t → Writes s.block i t.block) :
    Writes s.block i t.block := by
  obtain ⟨hidle, h⟩ | ⟨-, rfl⟩ := whenIdle_cases h
  · exact hk hidle h
  · exact .nothing i

/-- What `FRM.NEXT` can do: answer `NoFrame` in `IDLE`, or else deliver a byte, with `last` in `CRC_LO`
alone, and move `CRC` and the sequencer; `CRC` in `LENGTH` and `PAYLOAD` alone (R70). -/
theorem execFrmNext_cases (h : execFrmNext s = .next t) :
    (s.block.phase = .idle ∧
      t = { s with responses := s.responses ++ [⟨.error .noFrame, 0⟩] }) ∨
    (s.block.phase ≠ .idle ∧ ∃ out c p i,
      t = { s with
        block := { s.block with crc := c, phase := p, idx := i }
        responses := s.responses ++
          [⟨.ok, frameByteData out (decide (s.block.phase = .crcLo))⟩] } ∧
      (s.block.phase ≠ .length → s.block.phase ≠ .payload → c = s.block.crc)) := by
  unfold execFrmNext at h
  cases hp : s.block.phase with simp only [hp] at h
  | idle => cases h; exact .inl ⟨rfl, rfl⟩
  | preamble =>
    refine .inr ⟨nofun, ?_⟩
    unfold nextPreamble at h
    split at h
    · cases h; exact ⟨_, _, _, _, rfl, fun _ _ => rfl⟩
    · obtain ⟨i, -, rfl⟩ := advanceIdx_cases h
      exact ⟨_, _, _, i, rfl, fun _ _ => rfl⟩
  | payload =>
    refine .inr ⟨nofun, ?_⟩
    simp only [nextPayload] at h
    split at h
    · cases h; exact ⟨_, _, _, _, rfl, fun _ hne => absurd rfl hne⟩
    · obtain ⟨i, -, rfl⟩ := advanceIdx_cases h
      exact ⟨_, _, _, i, rfl, fun _ hne => absurd rfl hne⟩
  | length => cases h; exact .inr ⟨nofun, _, _, _, _, rfl, fun hne => absurd rfl hne⟩
  | sync | crcHi | crcLo => cases h; exact .inr ⟨nofun, _, _, _, _, rfl, fun _ _ => rfl⟩

theorem exec_writes {i : Instr} (h : exec i s = .next t) : Writes s.block i t.block := by
  cases i with
  | crcInit => exact whenIdle_writes h fun hidle h => by cases h; exact .crcInit hidle
  | crcByte v => exact whenIdle_writes h fun hidle h => by cases h; exact .crcByte hidle v
  | frmClear => exact whenIdle_writes h fun hidle h => by cases h; exact .frmClear hidle
  | frmPush v =>
    obtain hidle | hbusy := em (s.block.phase = .idle)
    · rw [exec_frmPush_of_idle hidle] at h
      cases h; exact .frmPush hidle v
    · exact whenIdle_writes h fun hidle => absurd hidle hbusy
  | frmStart =>
    refine whenIdle_writes h fun hidle h => ?_
    split at h
    · cases h; exact .nothing _
    · rename_i hne
      cases h; exact .frmStart hidle (by omega)
  | frmNext =>
    obtain ⟨-, rfl⟩ | ⟨hbusy, out, c, p, j, rfl, hc⟩ := execFrmNext_cases h
    · exact .nothing _
    · exact .frmNext hbusy c p j hc
  | crcRead | frmStat => cases h; exact .nothing _
  | timBaud sel =>
    simp only [exec, execTimBaud] at h
    split at h
    · cases h; exact .timBaud sel _
    · cases h; exact .nothing _
  | timMult k =>
    by_cases hk : operandOutOfRange (.timMult k)
    · rw [exec_of_operandOutOfRange hk] at h
      cases h; exact .nothing _
    · obtain ⟨h1, h2⟩ := mem_range_of_not_operandOutOfRange hk
      rw [exec_timMult_of_mem h1 h2] at h
      cases h; exact .timMult k _ (Fin.ne_of_gt h1)
  | timRdmin => obtain ⟨r, rfl⟩ := respondInterval_next h; exact .nothing _
  | timRdint => obtain ⟨r, rfl⟩ := respondInterval_next h; exact .nothing _
  | timRdchoice k =>
    simp only [exec, execTimRdchoice] at h
    split at h
    · obtain ⟨r, rfl⟩ := respondInterval_next h; exact .nothing _
    · cases h; exact .nothing _

end

/-! ### Register by register -/

theorem Block.push_eq (b : Block) (v : Byte) :
    b.push v = { b with pbuf := (b.push v).pbuf, plen := (b.push v).plen } := by
  unfold Block.push
  cases pushIndex b <;> rfl

/-- A push changes the cell at the index it stores to, and no other. -/
theorem Block.pbufRead_push_of_ne {b : Block} (v : Byte) {a : Fin 255} (h : pushIndex b ≠ some a) :
    (b.push v).pbufRead a = b.pbufRead a := by
  unfold Block.push
  cases hi : pushIndex b with
  | some i =>
    have hne : a ≠ i := fun hai => h (hi.trans (congrArg some hai.symm))
    exact (Block.pbufRead_pbufWrite b i a v).trans (if_neg hne)
  | none => rfl

section
variable {b b' : Block} {i : Instr}

theorem Writes.crc_eq (h : Writes b i b') (hinit : i ≠ .crcInit) (hbyte : ∀ v, i ≠ .crcByte v)
    (hstart : i ≠ .frmStart)
    (hnext : i = .frmNext → b.phase ≠ .length ∧ b.phase ≠ .payload) : b'.crc = b.crc := by
  cases h with
  | crcInit => exact absurd rfl hinit
  | crcByte _ v => exact absurd rfl (hbyte v)
  | frmStart => exact absurd rfl hstart
  | frmNext _ c p i hc => exact hc (hnext rfl).1 (hnext rfl).2
  | frmPush _ v => rw [b.push_eq v]
  | nothing | frmClear | timBaud | timMult => rfl

theorem Writes.pbuf_eq (h : Writes b i b') (hpush : ∀ v, i ≠ .frmPush v) : b'.pbuf = b.pbuf := by
  cases h with
  | frmPush _ v => exact absurd rfl (hpush v)
  | nothing | crcInit | crcByte | frmClear | frmStart | frmNext | timBaud | timMult => rfl

theorem Writes.pbufRead_eq_of_push {v : Byte} (h : Writes b (.frmPush v) b') {a : Fin 255}
    (ha : pushIndex b ≠ some a) : b'.pbufRead a = b.pbufRead a := by
  cases h with
  | frmPush => exact Block.pbufRead_push_of_ne v ha
  | nothing => rfl

theorem Writes.plen_eq (h : Writes b i b') (hpush : ∀ v, i ≠ .frmPush v) (hclear : i ≠ .frmClear) :
    b'.plen = b.plen := by
  cases h with
  | frmPush _ v => exact absurd rfl (hpush v)
  | frmClear => exact absurd rfl hclear
  | nothing | crcInit | crcByte | frmStart | frmNext | timBaud | timMult => rfl

theorem Writes.sequencer_eq (h : Writes b i b') (hstart : i ≠ .frmStart) (hnext : i ≠ .frmNext) :
    b'.phase = b.phase ∧ b'.idx = b.idx := by
  cases h with
  | frmStart => exact absurd rfl hstart
  | frmNext => exact absurd rfl hnext
  | frmPush _ v => rw [b.push_eq v]; exact ⟨rfl, rfl⟩
  | nothing | crcInit | crcByte | frmClear | timBaud | timMult => exact ⟨rfl, rfl⟩

theorem Writes.baudSel_eq (h : Writes b i b') (hbaud : ∀ sel, i ≠ .timBaud sel) :
    b'.baudSel = b.baudSel := by
  cases h with
  | timBaud sel => exact absurd rfl (hbaud sel)
  | frmPush _ v => rw [b.push_eq v]
  | nothing | crcInit | crcByte | frmClear | frmStart | frmNext | timMult => rfl

theorem Writes.mult_eq (h : Writes b i b') (hmult : ∀ k, i ≠ .timMult k) : b'.mult = b.mult := by
  cases h with
  | timMult k => exact absurd rfl (hmult k)
  | frmPush _ v => rw [b.push_eq v]
  | nothing | crcInit | crcByte | frmClear | frmStart | frmNext | timBaud => rfl

/-- The commands that write nothing at all (20_memory.md R38). -/
theorem Writes.eq_of_read (h : Writes b i b')
    (hi : i = .crcRead ∨ i = .frmStat ∨ i = .timRdmin ∨ i = .timRdint ∨ ∃ k, i = .timRdchoice k) :
    b' = b := by
  cases h with
  | nothing => rfl
  | crcInit | crcByte | frmClear | frmPush | frmStart | frmNext | timBaud | timMult => simp at hi

/-- No command takes a selection back (70_reset_and_hazards.md R115). -/
theorem Writes.selection_kept (h : Writes b i b') :
    (b.baudSel ≠ .unselected → b'.baudSel ≠ .unselected) ∧ (b.mult ≠ 0 → b'.mult ≠ 0) := by
  cases h with
  | timBaud sel r => exact ⟨fun _ => BaudSel.noConfusion, id⟩
  | timMult k m hm => exact ⟨id, fun _ => hm⟩
  | frmPush _ v => rw [b.push_eq v]; exact ⟨id, id⟩
  | nothing | crcInit | crcByte | frmClear | frmStart | frmNext => exact ⟨id, id⟩

/-- During a frame `FRM.NEXT` alone writes anything of the framer, and neither buffer nor length (R104). -/
theorem Writes.of_busy (h : Writes b i b') (hbusy : b.phase ≠ .idle) :
    b'.pbuf = b.pbuf ∧ b'.plen = b.plen ∧
      (i ≠ .frmNext → b'.crc = b.crc ∧ b'.phase = b.phase ∧ b'.idx = b.idx) := by
  cases h with
  | crcInit hidle | crcByte hidle | frmClear hidle | frmPush hidle | frmStart hidle =>
    exact absurd hidle hbusy
  | frmNext => exact ⟨rfl, rfl, fun hne => absurd rfl hne⟩
  | nothing | timBaud | timMult => exact ⟨rfl, rfl, fun _ => ⟨rfl, rfl, rfl⟩⟩

end

/-! ### The statements -/

/-- Settles O45, by the frame of `CRC`. -/
theorem crcRegisterFrame : Obligations.CrcRegisterFrame :=
  fun _ _ _ h => (exec_writes h).crc_eq

/-- Settles O46, by the frames of `PBUF` and `PLEN`. -/
theorem payloadBufferFrame : Obligations.PayloadBufferFrame := by
  intro i s t h
  have hw := exec_writes h
  refine ⟨fun hpush a => ?_, ?_, hw.plen_eq⟩
  · rw [Block.pbufRead, hw.pbuf_eq hpush]
    rfl
  · rintro b rfl a
    exact hw.pbufRead_eq_of_push

/-- Settles O47, by the frame of `PHASE` and `IDX`. -/
theorem sequencerFrame : Obligations.SequencerFrame :=
  fun _ _ _ h => (exec_writes h).sequencer_eq

/-- Settles O48, by the frames of the two selectors. -/
theorem selectorFrame : Obligations.SelectorFrame :=
  fun _ _ _ h => ⟨(exec_writes h).baudSel_eq, (exec_writes h).mult_eq⟩

/-- Settles O49: outside the block a command appends its response. -/
theorem readCommandsChangeNoState : Obligations.ReadCommandsChangeNoState := by
  intro i s t h
  obtain ⟨r, ht⟩ := exec_next h
  refine ⟨(exec_writes h).eq_of_read, ?_⟩
  rw [ht]
  exact ⟨rfl, rfl, rfl⟩

/-- Settles O36: a word that is no command writes nothing, and a command only what `Writes.of_busy`
leaves it. -/
theorem frameInProgressIsProtected : Obligations.FrameInProgressIsProtected := by
  intro s t w rest hin hbusy hstep
  rw [step_of_inputs hin] at hstep
  obtain ⟨i, hi, hexec⟩ | ⟨-, rfl⟩ := runCommand_cases hstep
  · obtain ⟨hpbuf, hplen, hframer⟩ := (exec_writes hexec).of_busy hbusy
    exact ⟨hpbuf, hplen, fun hne => hframer fun h => hne (h ▸ hi)⟩
  · exact ⟨rfl, rfl, fun _ => ⟨rfl, rfl, rfl⟩⟩

end Sys2Proof.Machine
end

section
/-! Reachable blocks (10_state.md R26): a block in `IDLE` with `IDX` 0, or one in the middle of its frame
as `Block.atByte` has it. -/

namespace Sys2Proof.Machine

/-! ### The codes (10_state.md R14, R16, R17) -/

theorem phaseCode_le (p : Phase) : (phaseCode p).toNat ≤ 6 := by cases p <;> decide

theorem baudSelCode_selected (r : Fin 6) : (baudSelCode (.selected r)).toNat = r.val :=
  (BitVec.toNat_ofNat ..).trans (Nat.mod_eq_of_lt (by omega))

theorem baudSelCode_legal (r : BaudSel) :
    (baudSelCode r).toNat ≤ 5 ∨ (baudSelCode r).toNat = 7 := by
  cases r with
  | unselected => exact .inr rfl
  | selected r => exact .inl (by rw [baudSelCode_selected]; omega)

theorem multCode_toNat (m : Fin 11) : (multCode m).toNat = m.val :=
  (BitVec.toNat_ofNat ..).trans (Nat.mod_eq_of_lt (by omega))

/-! ### Where a frame stands -/

theorem lt_of_phaseAtByte_preamble {n k : Nat} (h : phaseAtByte n k = .preamble) : k < 5 := by
  unfold phaseAtByte at h; grind

theorem le_of_phaseAtByte_beforePayload {n k : Nat}
    (h : phaseAtByte n k = .preamble ∨ phaseAtByte n k = .sync ∨ phaseAtByte n k = .length) :
    k ≤ 6 := by
  unfold phaseAtByte at h; grind

theorem mem_of_phaseAtByte_payload {n k : Nat} (h : phaseAtByte n k = .payload) :
    7 ≤ k ∧ k < 7 + n := by
  unfold phaseAtByte at h; grind

theorem le_of_phaseAtByte_checksum {n k : Nat}
    (h : phaseAtByte n k = .crcHi ∨ phaseAtByte n k = .crcLo) : 7 + n ≤ k := by
  unfold phaseAtByte at h; grind

theorem idxAtByte_eq_zero {n k : Nat} (h : phaseAtByte n k ≠ .preamble)
    (h' : phaseAtByte n k ≠ .payload) : idxAtByte n k = 0 := by
  unfold phaseAtByte at h h'; unfold idxAtByte; grind

theorem phaseAtByte_end (n : Nat) : phaseAtByte n (9 + n) = .idle := by
  unfold phaseAtByte; grind

/-! ### Both kinds are reachable -/

section
variable {b : Block}

theorem reachable_of_idle (h : b.phase = .idle) (hidx : b.idx.val = 0) : Reachable b where
  plenLegal := by rw [plenCode_toNat]; omega
  phaseLegal := phaseCode_le _
  busyPlen hne := absurd h hne
  preambleIdx hp := by simp [h] at hp
  payloadIdx hp := by simp [h] at hp
  otherIdx _ _ := hidx
  baudSelLegal := baudSelCode_legal _
  multLegal := by rw [multCode_toNat]; omega
  checksumDone hp := by simp [h] at hp
  checksumRunning hp := by simp [h] at hp
  checksumInit hp := by simp [h] at hp

theorem reachable_atByte (hp : b.plen.val ≤ 255) (k : Nat) : Reachable (b.atByte k) where
  plenLegal := by rw [plenCode_toNat]; omega
  phaseLegal := phaseCode_le _
  busyPlen _ := hp
  preambleIdx h := by
    have hk := lt_of_phaseAtByte_preamble h
    rw [Block.atByte_preamble b hk]
    exact (Nat.mod_le _ _).trans (by omega)
  payloadIdx h := by
    obtain ⟨hk, hlt⟩ := mem_of_phaseAtByte_payload h
    obtain ⟨i, rfl⟩ := Nat.exists_eq_add_of_le hk
    rw [Block.atByte_payload b (by omega)]
    exact (Nat.mod_le i 255).trans_lt (Nat.lt_of_add_lt_add_left hlt)
  otherIdx h h' := congrArg (· % 255) (idxAtByte_eq_zero h h')
  baudSelLegal := baudSelCode_legal _
  multLegal := by rw [multCode_toNat]; omega
  checksumDone h := by
    rw [Block.atByte_of_le b (le_of_phaseAtByte_checksum h)]
    simp only [frameChecksum, lengthPrefixed, Block.payload_length]
    rfl
  checksumRunning h := by
    obtain ⟨hk, hlt⟩ := mem_of_phaseAtByte_payload h
    obtain ⟨i, rfl⟩ := Nat.exists_eq_add_of_le hk
    rw [Block.atByte_payload b (by omega)]
    have hidx : i % 255 = i := Nat.mod_eq_of_lt (by omega)
    simp only [Fin.ofNat, hidx]
    rfl
  checksumInit h := by
    rw [Block.atByte_of_le_six b (le_of_phaseAtByte_beforePayload h)]

/-- The selectors and the invariants of the framer have nothing to do with one another. -/
theorem Reachable.of_framer_eq {a : Block} (hb : Reachable b) (h : a.framer = b.framer) :
    Reachable a := by
  obtain ⟨hcrc, hpbuf, hplen, hphase, hidx⟩ := Block.fields_of_framer_eq h
  have hprefix (n : Nat) : a.pbufPrefix n = b.pbufPrefix n := by
    rw [Block.pbufPrefix, hpbuf]
    rfl
  constructor
  case baudSelLegal => exact baudSelCode_legal _
  case multLegal => rw [multCode_toNat]; omega
  all_goals simp only [hcrc, hplen, hphase, hidx, hprefix]
  exacts [hb.plenLegal, hb.phaseLegal, hb.busyPlen, hb.preambleIdx, hb.payloadIdx, hb.otherIdx,
    hb.checksumDone, hb.checksumRunning, hb.checksumInit]

/-! ### There are no others -/

/-- A block is the one with the same registers written again. -/
theorem Block.eq_of_sequencer {c : CrcWord} {p : Phase} {i : Fin 255} (hc : b.crc = c)
    (hp : b.phase = p) (hi : b.idx = i) : b = { b with crc := c, phase := p, idx := i } := by
  subst hc hp hi
  rfl

/-- A reachable block with a frame in progress has delivered some of its bytes, but not all. -/
theorem Reachable.exists_atByte (hr : Reachable b) (hbusy : b.phase ≠ .idle) :
    ∃ k, k < 9 + b.plen.val ∧ b = b.atByte k := by
  have hidx_zero {p : Phase} (h : b.phase = p) (hp : p ≠ .preamble ∧ p ≠ .payload) : b.idx = 0 :=
    Fin.ext (hr.otherIdx (h ▸ hp.1) (h ▸ hp.2))
  have hidx_val : b.idx = Fin.ofNat 255 b.idx.val := Fin.ext (Nat.mod_eq_of_lt b.idx.isLt).symm
  have hchecksum :
      frameChecksum b.payload = crc16 (byteOf b.plen.val :: b.pbufPrefix b.plen.val) := by
    rw [frameChecksum, lengthPrefixed, Block.payload_length, Block.payload]
  cases hp : b.phase with
  | idle => exact absurd hp hbusy
  | preamble =>
    have hidx := hr.preambleIdx hp
    refine ⟨b.idx.val, by omega, ?_⟩
    rw [Block.atByte_preamble b (by omega)]
    exact Block.eq_of_sequencer (hr.checksumInit (by simp [hp])) hp hidx_val
  | sync =>
    refine ⟨5, by omega, ?_⟩
    rw [Block.atByte_sync]
    exact Block.eq_of_sequencer (hr.checksumInit (by simp [hp])) hp
      (hidx_zero hp (by decide))
  | length =>
    refine ⟨6, by omega, ?_⟩
    rw [Block.atByte_length]
    exact Block.eq_of_sequencer (hr.checksumInit (by simp [hp])) hp
      (hidx_zero hp (by decide))
  | payload =>
    have hidx := hr.payloadIdx hp
    refine ⟨7 + b.idx.val, by omega, ?_⟩
    rw [Block.atByte_payload b hidx]
    exact Block.eq_of_sequencer (hr.checksumRunning hp) hp hidx_val
  | crcHi =>
    refine ⟨7 + b.plen.val, by omega, ?_⟩
    rw [Block.atByte_crcHi, hchecksum]
    exact Block.eq_of_sequencer (hr.checksumDone (by simp [hp])) hp
      (hidx_zero hp (by decide))
  | crcLo =>
    refine ⟨8 + b.plen.val, by omega, ?_⟩
    rw [Block.atByte_crcLo, hchecksum]
    exact Block.eq_of_sequencer (hr.checksumDone (by simp [hp])) hp
      (hidx_zero hp (by decide))

end

/-! ### A command keeps a block reachable -/

theorem Reachable.frmNext {s t : State} (hr : Reachable s.block) (h : exec .frmNext s = .next t) :
    Reachable t.block := by
  obtain hidle | hbusy := em (s.block.phase = .idle)
  · rw [exec_frmNext_idle hidle] at h
    cases h
    exact hr
  · obtain ⟨k, hk, hblock⟩ := hr.exists_atByte hbusy
    have hp := hr.busyPlen hbusy
    obtain ⟨u, r, hexec, hframer, -⟩ :=
      exec_of_framer_eq (s := s) rfl (congrArg Block.framer hblock) (exec_frmNext_emitted hp hk)
    cases h.symm.trans hexec
    exact (reachable_atByte hp (k + 1)).of_framer_eq hframer

theorem Reachable.exec {i : Instr} {s t : State} (hr : Reachable s.block)
    (h : exec i s = .next t) : Reachable t.block := by
  obtain rfl | hne := eq_or_ne i .frmNext
  · exact hr.frmNext h
  have hw := exec_writes h
  generalize t.block = b at hw
  have hidx (hidle : s.block.phase = .idle) : s.block.idx.val = 0 :=
    hr.otherIdx (by simp [hidle]) (by simp [hidle])
  cases hw with
  | nothing => exact hr
  | crcInit hidle | crcByte hidle | frmClear hidle => exact reachable_of_idle hidle (hidx hidle)
  | frmPush hidle v =>
    rw [Block.push_eq]
    exact reachable_of_idle hidle (hidx hidle)
  | frmStart hidle hp => exact s.block.atByte_preamble (k := 0) (by omega) ▸ reachable_atByte hp 0
  | frmNext => exact absurd rfl hne
  | timBaud | timMult => exact hr.of_framer_eq rfl

/-! ### A frame in progress is read to its end -/

theorem framerResponses_of_all {is : List Instr} {rs : List Response}
    (h : ∀ i ∈ is, bystander i = false) (hlen : rs.length = is.length) :
    framerResponses is rs = rs := by
  have hall : (is.zip rs).filter (fun x => !bystander x.1) = is.zip rs :=
    List.filter_eq_self.2 fun x hx => by simp [h x.1 (List.of_mem_zip hx).1]
  rw [framerResponses, hall, List.map_snd_zip hlen.le]

theorem emitted_responses_append_drop (s : State) (k : Nat) :
    (s.emitted (9 + s.block.plen.val)).responses =
      (s.emitted k).responses ++ (frameResponses s.block.payload).drop k := by
  have hall : (frameResponses s.block.payload).length = 9 + s.block.plen.val := by
    rw [length_frameResponses, Block.payload_length]
  simp only [State.emitted, ← hall, List.take_length, List.append_assoc, List.take_append_drop]

/-- From a block that has delivered `k` bytes of its frame, the others are read, whatever has been
answered before. -/
theorem run_replicate_frmNext_of_atByte {s : State} (hp : s.block.plen.val ≤ 255) {k : Nat}
    (hk : k ≤ 9 + s.block.plen.val) (hblock : s.block = s.block.atByte k) :
    ∃ t, s.run (List.replicate (9 + s.block.plen.val - k) .frmNext) = .next t ∧
      t.block.framer = (s.block.atByte (9 + s.block.plen.val)).framer ∧
      t.responses = s.responses ++ (frameResponses s.block.payload).drop k := by
  have hnext : ∀ i ∈ List.replicate (9 + s.block.plen.val - k) Instr.frmNext, bystander i = false :=
    fun i hi => List.eq_of_mem_replicate hi ▸ rfl
  have hfilter := List.filter_eq_self.2 fun i hi => congrArg (!·) (hnext i hi)
  have hemitted := run_replicate_frmNext_append hp [] (Nat.add_sub_of_le hk).le
  rw [List.append_nil, Nat.add_sub_of_le hk, ← hfilter] at hemitted
  obtain ⟨t, rs, hrun, hframer, ht, hlen, hresp⟩ :=
    run_of_run_filter (s := s) (congrArg Block.framer hblock) hemitted
  rw [framerResponses_of_all hnext hlen] at hresp
  have hrest := List.append_cancel_left (hresp.symm.trans (emitted_responses_append_drop s k))
  exact ⟨t, hrun, hframer, hrest ▸ ht⟩

theorem lastFlags_drop {n k : Nat} (h : k ≤ 8 + n) :
    (lastFlags n).drop k = List.replicate (8 + n - k) false ++ [true] := by
  rw [lastFlags, List.drop_append_of_le_length (by rwa [List.length_replicate]), List.drop_replicate]

/-- Settles O35: what the frame still has to deliver is read to its end, `last` with its last byte. -/
theorem busyFrameIsReadToItsEnd : Obligations.BusyFrameIsReadToItsEnd := by
  intro s hr hbusy
  obtain ⟨k, hk, hblock⟩ := hr.exists_atByte hbusy
  obtain ⟨t, hrun, hframer, hresp⟩ :=
    run_replicate_frmNext_of_atByte (hr.busyPlen hbusy) hk.le hblock
  obtain ⟨-, -, -, hphase, -⟩ := Block.fields_of_framer_eq hframer
  have hcount : 9 + s.block.plen.val - k = 8 + s.block.plen.val - k + 1 := by omega
  refine ⟨8 + s.block.plen.val - k, t, _, by omega, hcount ▸ hrun, hresp,
    fun r h => status_of_mem_frameResponses (List.mem_of_mem_drop h), ?_,
    hphase.trans (phaseAtByte_end _)⟩
  rw [List.map_drop, frameResponses_map_last, Block.payload_length, lastFlags_drop (by omega)]

end Sys2Proof.Machine
end

section
/-! The host agent's inputs (45_scheduler.md R90 to R96): what they do to its session, and the session's
bounds. -/

namespace Sys2Proof.Machine

theorem Plan.valid_iff {p : Plan} :
    p.valid = true ↔ 0 ≤ p.durationSeconds ∧ p.durationSeconds ≤ 300 ∧ 1 ≤ p.intervalMillis := by
  simp only [Plan.valid, Bool.and_eq_true, decide_eq_true_eq, and_assoc]
  rfl

/-- A session after one more send that succeeded (R93, R96). -/
def Session.afterSend (σ : Session) : Session :=
  { σ with
    remainingBudgetMillis := σ.remainingBudgetMillis - σ.plan.intervalMillis
    packetsSent := σ.packetsSent + 1 }

theorem sessionLoop_send {σ : Session} (h : 0 < σ.remainingBudgetMillis) :
    sessionLoop σ true = .goesOn σ.afterSend := if_pos h

theorem sessionLoop_fail {σ : Session} (h : 0 < σ.remainingBudgetMillis) :
    sessionLoop σ false = .ends (.transportError σ.packetsSent) := if_pos h

theorem sessionLoop_complete {σ : Session} (h : σ.remainingBudgetMillis ≤ 0) (sendOk : Bool) :
    sessionLoop σ sendOk = .ends (.completed σ.packetsSent) := if_neg (not_lt.2 h)

/-- A loop that goes on has had budget left, and has sent. -/
theorem sessionLoop_goesOn {σ σ' : Session} {sendOk : Bool} (h : sessionLoop σ sendOk = .goesOn σ') :
    0 < σ.remainingBudgetMillis ∧ σ' = σ.afterSend := by
  by_cases hb : 0 < σ.remainingBudgetMillis
  · cases sendOk with
    | true => exact ⟨hb, (LoopResult.goesOn.inj ((sessionLoop_send hb).symm.trans h)).symm⟩
    | false => cases (sessionLoop_fail hb).symm.trans h
  · cases (sessionLoop_complete (not_lt.1 hb) sendOk).symm.trans h

/-! ### The bounds of a session -/

theorem sessionInv_openSession {p : Plan} (h : p.valid = true) : SessionInv (openSession p) := by
  obtain ⟨hlow, hhigh, hint⟩ := Plan.valid_iff.1 h
  exact ⟨h, by simp [openSession], by simp only [openSession]; omega,
    by simp only [openSession]; omega⟩

theorem SessionInv.afterSend {σ : Session} (h : SessionInv σ) (hb : 0 < σ.remainingBudgetMillis) :
    SessionInv σ.afterSend := by
  obtain ⟨-, -, hint⟩ := Plan.valid_iff.1 h.planValid
  have hhigh := h.budgetHigh
  refine ⟨h.planValid, ?_, by simp only [Session.afterSend]; omega,
    by simp only [Session.afterSend]; omega⟩
  simp only [Session.afterSend, h.budget, Nat.cast_succ]
  ring

/-- The session of the host, if there is one, is within its bounds. -/
def HostSide.Bounded (h : HostSide) : Prop := ∀ σ, h.session = some σ → SessionInv σ

theorem HostSide.bounded_of_session_eq_none {h : HostSide} (hnone : h.session = none) : h.Bounded :=
  fun σ hσ => by simp [hnone] at hσ

theorem HostSide.bounded_of_session_eq_some {h : HostSide} {σ : Session} (hsome : h.session = some σ)
    (hσ : SessionInv σ) : h.Bounded :=
  fun _ hσ' => Option.some.inj (hsome.symm.trans hσ') ▸ hσ

/-! ### What the host's inputs do -/

theorem beginRun_of_valid {p : Plan} {s : State} (h : s.host.session = none) (hv : p.valid = true) :
    beginRun p s = .next { s with host := { s.host with session := some (openSession p) } } := by
  simp only [beginRun, h, hv, if_true]

theorem beginRun_of_not_valid {p : Plan} {s : State} (h : s.host.session = none)
    (hv : ¬ p.valid = true) :
    beginRun p s = .next { s with host := s.host.endRun .rejected } := by
  simp only [beginRun, h, if_neg hv]

theorem beginRun_of_session {p : Plan} {s : State} {σ : Session} (h : s.host.session = some σ) :
    beginRun p s = .refused .runInProgress := by
  simp only [beginRun, h]

theorem loopOnce_of_goesOn {s : State} {σ σ' : Session} {sendOk : Bool}
    (h : s.host.session = some σ) (hl : sessionLoop σ sendOk = .goesOn σ') :
    loopOnce sendOk s = .next { s with host :=
      { s.host with session := some σ', sent := s.host.sent ++ [σ.plan.frame] } } := by
  simp only [loopOnce, h, hl]

theorem loopOnce_of_ends {s : State} {σ : Session} {r : RunResult} {sendOk : Bool}
    (h : s.host.session = some σ) (hl : sessionLoop σ sendOk = .ends r) :
    loopOnce sendOk s = .next { s with host := s.host.endRun r } := by
  simp only [loopOnce, h, hl]

theorem loopOnce_of_no_session {s : State} {sendOk : Bool} (h : s.host.session = none) :
    loopOnce sendOk s = .refused .noRunInProgress := by
  simp only [loopOnce, h]

/-- What a step of the host may do: refuse its input, or act on the host side alone, within the bounds. -/
def ActsOnHost (s : State) (k : Result) : Prop :=
  (∃ r, k = .refused r) ∨
    ∃ h, k = .next { s with host := h } ∧ (s.host.Bounded → h.Bounded)

theorem actsOnHost_beginRun (p : Plan) (s : State) : ActsOnHost s (beginRun p s) := by
  cases hs : s.host.session with
  | some σ => exact .inl ⟨_, beginRun_of_session hs⟩
  | none =>
    by_cases hv : p.valid = true
    · exact .inr ⟨_, beginRun_of_valid hs hv,
        fun _ => HostSide.bounded_of_session_eq_some rfl (sessionInv_openSession hv)⟩
    · exact .inr ⟨_, beginRun_of_not_valid hs hv, fun _ => HostSide.bounded_of_session_eq_none rfl⟩

theorem actsOnHost_loopOnce (sendOk : Bool) (s : State) : ActsOnHost s (loopOnce sendOk s) := by
  cases hs : s.host.session with
  | none => exact .inl ⟨_, loopOnce_of_no_session hs⟩
  | some σ =>
    cases hl : sessionLoop σ sendOk with
    | goesOn σ' =>
      obtain ⟨hb, rfl⟩ := sessionLoop_goesOn hl
      exact .inr ⟨_, loopOnce_of_goesOn hs hl,
        fun h => HostSide.bounded_of_session_eq_some rfl ((h σ hs).afterSend hb)⟩
    | ends r =>
      exact .inr ⟨_, loopOnce_of_ends hs hl, fun _ => HostSide.bounded_of_session_eq_none rfl⟩

/-- Settles O57: the plan is not valid, so it is rejected. -/
theorem invalidPlanIsRejected : Obligations.InvalidPlanIsRejected := by
  intro s d i f rest hin hnone hbounds
  rw [step_of_inputs hin]
  refine (beginRun_of_not_valid (s := { s with inputs := rest }) hnone fun hv => ?_).trans ?_
  · obtain ⟨hlow, hhigh, hint⟩ := Plan.valid_iff.1 hv
    simp only at hlow hhigh hint
    omega
  · simp only [HostSide.endRun, hnone]

end Sys2Proof.Machine
end

section
/-! One step, whatever the input (00_scope.md R4): what it keeps. -/

namespace Sys2Proof.Machine

/-- What a step does besides holding the state: it runs a command, resets the block, or lets the host
act. -/
theorem runInput_cases {x : Input} {s t : State} (h : runInput x s = .next t) :
    (∃ w, x = .command w ∧ runCommand w s = .next t) ∨
    (x = .reset ∧ t = { s with block := Block.reset }) ∨
    ∃ host, t = { s with host := host } ∧ (s.host.Bounded → host.Bounded) := by
  have onHost {k : Result} (hk : ActsOnHost s k) (h : k = .next t) :
      ∃ host, t = { s with host := host } ∧ (s.host.Bounded → host.Bounded) := by
    obtain ⟨r, rfl⟩ | ⟨host, rfl, hb⟩ := hk
    · cases h
    · cases h; exact ⟨host, rfl, hb⟩
  cases x with
  | command w => exact .inl ⟨w, rfl, h⟩
  | reset => exact .inr (.inl ⟨rfl, by cases h; rfl⟩)
  | beginRun d i f => exact .inr (.inr (onHost (actsOnHost_beginRun _ s) h))
  | loop sendOk => exact .inr (.inr (onHost (actsOnHost_loopOnce sendOk s) h))
  | secondHost _ | earlyCommand _ | resetMidCommand _ => cases h

/-- A word, legal or not, appends one response and changes the block, nothing else. -/
theorem runCommand_next {w : CommandWord} {s t : State} (h : runCommand w s = .next t) :
    ∃ r, t = { s with block := t.block, responses := s.responses ++ [r] } := by
  obtain ⟨i, -, h⟩ | ⟨-, rfl⟩ := runCommand_cases h
  · exact exec_next h
  · exact ⟨_, rfl⟩

/-- Settles O60: of the inputs only a command, a reset or the host acts, and none of them on the
parameter. -/
theorem parameterNeverChanges : Obligations.ParameterNeverChanges := by
  intro s t h
  obtain ⟨-, rfl⟩ | ⟨x, rest, -, h⟩ := step_cases h
  · rfl
  obtain ⟨w, -, h⟩ | ⟨-, rfl⟩ | ⟨host, rfl, -⟩ := runInput_cases h
  · obtain ⟨r, ht⟩ := runCommand_next h
    rw [ht]
  · rfl
  · rfl

/-- Settles O15: a command takes no selection back, and the host does not act on the block. -/
theorem onlyResetUnselects : Obligations.OnlyResetUnselects := by
  intro s t hreset h
  obtain ⟨-, rfl⟩ | ⟨x, rest, hin, h⟩ := step_cases h
  · exact ⟨id, id⟩
  obtain ⟨w, -, h⟩ | ⟨rfl, -⟩ | ⟨host, rfl, -⟩ := runInput_cases h
  · obtain ⟨i, -, h⟩ | ⟨-, rfl⟩ := runCommand_cases h
    · exact (exec_writes h).selection_kept
    · exact ⟨id, id⟩
  · exact absurd hin (hreset rest)
  · exact ⟨id, id⟩

/-! ### The invariant -/

theorem Writes.wf {b b' : Block} {i : Instr} (h : Writes b i b') (hb : Memory.wf b.pbuf) :
    Memory.wf b'.pbuf := by
  cases h with
  | frmPush _ v =>
    unfold Block.push
    split
    · exact Block.wf_pbufWrite hb _ v
    · exact hb
  | nothing | crcInit | crcByte | frmClear | frmStart | frmNext | timBaud | timMult => exact hb

theorem Inv.exec {i : Instr} {s t : State} (hs : Inv s) (h : exec i s = .next t) : Inv t := by
  obtain ⟨r, ht⟩ := exec_next h
  exact ⟨hs.reachable.exec h, (exec_writes h).wf hs.memory, by rw [ht]; exact hs.session⟩

/-- Settles O51: a command keeps each part, a reset block is reachable, and the host keeps its bounds. -/
theorem everyStepKeepsInvariant : Obligations.EveryStepKeepsInvariant := by
  intro s t hs h
  obtain ⟨-, rfl⟩ | ⟨x, rest, -, h⟩ := step_cases h
  · exact hs
  have hs : Inv { s with inputs := rest } := ⟨hs.reachable, hs.memory, hs.session⟩
  obtain ⟨w, -, h⟩ | ⟨-, rfl⟩ | ⟨host, rfl, hhost⟩ := runInput_cases h
  · obtain ⟨i, -, h⟩ | ⟨-, rfl⟩ := runCommand_cases h
    · exact hs.exec h
    · exact ⟨hs.reachable, hs.memory, hs.session⟩
  · exact ⟨reachable_of_idle rfl rfl, Memory.wf_reset, hs.session⟩
  · exact ⟨hs.reachable, hs.memory, hhost hs.session⟩

theorem inv_reset (xs : List Input) : Inv { State.reset with inputs := xs } :=
  ⟨reachable_of_idle rfl rfl, Memory.wf_reset, HostSide.bounded_of_session_eq_none rfl⟩

/-- Settles O50: the reset block is idle, and there is neither a cell nor a session. -/
theorem invariantHoldsAtReset : Obligations.InvariantHoldsAtReset := inv_reset []

theorem exists_step_of_run_succ {n : Nat} {s t : State} (h : core.run (n + 1) s = .next t) :
    ∃ u, step s = .next u ∧ core.run n u = .next t := by
  cases hstep : core.step s with
  | next u => exact ⟨u, hstep, by simpa only [Host.Core.run, hstep] using h⟩
  | fault _ | refused _ =>
    simp only [Host.Core.run, hstep] at h
    cases h

/-- What every step keeps, every run keeps. -/
theorem run_keeps {p : State → Prop} (hstep : ∀ s t, p s → step s = .next t → p t) {n : Nat}
    {s t : State} (hs : p s) (h : core.run n s = .next t) : p t := by
  induction n generalizing s with
  | zero => cases h; exact hs
  | succ n ih =>
    obtain ⟨u, hu, hrest⟩ := exists_step_of_run_succ h
    exact ih (hstep s u hs hu) hrest

/-- Settles O52, from the reset state and the step. -/
theorem invariantHoldsOnEveryRun : Obligations.InvariantHoldsOnEveryRun :=
  fun xs _ _ => run_keeps everyStepKeepsInvariant (inv_reset xs)

theorem runCommand_ne_fault {s : State} (hr : Reachable s.block) (w : CommandWord) (f : Fault) :
    runCommand w s ≠ .fault f := by
  obtain ⟨b, d, h, -⟩ | ⟨e, h⟩ := answersOnce_runCommand hr w <;>
    (rw [h]; exact nofun)

/-- Settles O53: a command answers once, and the host's inputs are refused or act. -/
theorem reachableStateNeverFaults : Obligations.ReachableStateNeverFaults := by
  intro s f hs h
  have onHost {s : State} {k : Result} (hk : ActsOnHost s k) : k ≠ .fault f := by
    obtain ⟨r, rfl⟩ | ⟨host, rfl, -⟩ := hk <;> exact nofun
  cases hin : s.inputs with
  | nil => simp [step, stepInputs, hin] at h
  | cons x rest =>
    rw [step_of_inputs hin] at h
    cases x with
    | command w => exact runCommand_ne_fault (s := { s with inputs := rest }) hs.reachable w f h
    | beginRun d i fr => exact onHost (actsOnHost_beginRun _ _) h
    | loop sendOk => exact onHost (actsOnHost_loopOnce sendOk _) h
    | reset | secondHost _ | earlyCommand _ | resetMidCommand _ => cases h

end Sys2Proof.Machine
end

section
/-! Two machines in step (10_state.md R12, R27): where the blocks agree on the registers and on the cells
below `PLEN`, and the parameter is the same, a word is answered alike and the blocks agree again. -/

namespace Sys2Proof.Machine

/-- Two contents of `PBUF` with the same payload of `n` bytes. -/
def Memory.AgreeBelow (n : Nat) (m m' : Memory) : Prop :=
  ∀ i : Fin 255, i.val < n → Memory.read m i.val = Memory.read m' i.val

/-- The other machine, as `a` sees it: its own buffer and all else its own but the registers and the
parameter. -/
def State.other (a : State) (m : Memory) (u : State) : State :=
  { u with block := { a.block with pbuf := m }, maxPayloadBytes := a.maxPayloadBytes }

theorem Block.eq_of_agree {a b : Block} (h : a.agree b) : b = { a with pbuf := b.pbuf } := by
  obtain ⟨hcrc, hplen, hphase, hidx, hbaud, hmult, -⟩ := h
  rw [hcrc, hplen, hphase, hidx, hbaud, hmult]

theorem Block.agreeBelow_of_agree {a b : Block} (h : a.agree b) :
    Memory.AgreeBelow a.plen.val a.pbuf b.pbuf := by
  obtain ⟨-, -, -, -, -, -, hread⟩ := h
  exact hread

theorem Block.agree_of_agreeBelow {a : Block} {m : Memory}
    (h : Memory.AgreeBelow a.plen.val a.pbuf m) : a.agree { a with pbuf := m } :=
  ⟨rfl, rfl, rfl, rfl, rfl, rfl, h⟩

theorem State.eq_other {a b : State} (h : a.block.agree b.block)
    (hp : a.maxPayloadBytes = b.maxPayloadBytes) : b = a.other b.block.pbuf b := by
  rw [State.other, ← Block.eq_of_agree h, hp]

/-- Two results, of commands that start in `a` and in `b`: the same response and agreeing blocks, or the
same fault. -/
def AnswersAlike (a b : State) (k k' : Result) : Prop :=
  (∃ x m r, k = .next { a with block := x, responses := a.responses ++ [r] } ∧
    k' = .next { b with block := { x with pbuf := m }, responses := b.responses ++ [r] } ∧
    Memory.AgreeBelow x.plen.val x.pbuf m) ∨
  ∃ f, k = .fault f ∧ k' = .fault f

/-! ### The cells below the new length, after a push -/

theorem Memory.AgreeBelow.write {n : Nat} {m m' : Memory} (h : Memory.AgreeBelow n m m') (v : Byte) :
    Memory.AgreeBelow (n + 1) (Memory.write m n v) (Memory.write m' n v) := by
  intro i hi
  rw [Memory.read_write, Memory.read_write]
  split
  · rfl
  · exact h i (by omega)

theorem Memory.AgreeBelow.of_le {n : Nat} {m m' : Memory} (h : Memory.AgreeBelow n m m')
    (hn : 255 ≤ n) (k : Nat) : Memory.AgreeBelow k m m' :=
  fun i _ => h i (i.isLt.trans_le hn)

section
variable {a u : State} {m : Memory} (hm : Memory.AgreeBelow a.block.plen.val a.block.pbuf m)
include hm

/-! ### The shared operations -/

theorem answersAlike_respond (x : Block) (st : Status) (d : ResponseData)
    (hx : x.pbuf = a.block.pbuf ∧ x.plen = a.block.plen := by exact ⟨rfl, rfl⟩) :
    AnswersAlike a (a.other m u) (respond st d { a with block := x })
      (respond st d { a.other m u with block := { x with pbuf := m } }) := by
  obtain ⟨hpbuf, hplen⟩ := hx
  exact .inl ⟨x, m, ⟨st, d⟩, rfl, rfl, by rwa [hpbuf, hplen]⟩

theorem answersAlike_whenIdle {k k' : Result} (hk : AnswersAlike a (a.other m u) k k') :
    AnswersAlike a (a.other m u) (whenIdle a k) (whenIdle (a.other m u) k') := by
  have hphase : (a.other m u).block.phase = a.block.phase := rfl
  unfold whenIdle
  rw [hphase]
  split
  · exact hk
  · exact answersAlike_respond hm a.block _ _

theorem answersAlike_respondInterval (v : Option Nat) :
    AnswersAlike a (a.other m u) (respondInterval v a) (respondInterval v (a.other m u)) := by
  cases v <;> exact answersAlike_respond hm a.block _ _

/-- The index advances, with a new value of `CRC`, alike. -/
theorem answersAlike_advanceIdx (out : Byte) (c : CrcWord) :
    AnswersAlike a (a.other m u) (advanceIdx out (a.setCrc c))
      (advanceIdx out ((a.other m u).setCrc c)) := by
  have hidx : ((a.other m u).setCrc c).block.idx = (a.setCrc c).block.idx := rfl
  unfold advanceIdx
  rw [hidx]
  cases idxSucc (a.setCrc c).block.idx with
  | some i => exact answersAlike_respond hm ((a.setCrc c).setSequencer _ i).block _ _
  | none => exact .inr ⟨_, rfl, rfl⟩

/-! ### The commands -/

theorem answersAlike_execFrmNext (hr : Reachable a.block) :
    AnswersAlike a (a.other m u) (execFrmNext a) (execFrmNext (a.other m u)) := by
  have hphase : (a.other m u).block.phase = a.block.phase := rfl
  have hidx : (a.other m u).block.idx = a.block.idx := rfl
  have hplen : (a.other m u).block.plen = a.block.plen := rfl
  unfold execFrmNext
  rw [hphase]
  cases hp : a.block.phase with
  | idle => exact answersAlike_respond hm a.block _ _
  | preamble =>
    simp only [nextPreamble, hidx]
    split
    · exact answersAlike_respond hm (a.setSequencer _ _).block _ _
    · exact answersAlike_advanceIdx hm _ a.block.crc
  | payload =>
    have hread : (a.other m u).block.pbufRead a.block.idx = a.block.pbufRead a.block.idx :=
      (hm a.block.idx (hr.payloadIdx hp)).symm
    simp only [nextPayload, hidx, hplen, hread]
    split
    · exact answersAlike_respond hm ((a.setCrc _).setSequencer _ _).block _ _
    · exact answersAlike_advanceIdx hm _ _
  | sync | crcHi | crcLo => exact answersAlike_respond hm (a.setSequencer _ _).block _ _
  | length => exact answersAlike_respond hm ((a.setCrc _).setSequencer _ _).block _ _

theorem answersAlike_frmPush (v : Byte) :
    AnswersAlike a (a.other m u) (exec (.frmPush v) a) (exec (.frmPush v) (a.other m u)) := by
  have hplen : (a.other m u).block.plen = a.block.plen := rfl
  refine answersAlike_whenIdle hm ?_
  obtain hlt | hle := Nat.lt_or_ge a.block.plen.val 255
  · rw [pushIndex_of_lt hlt, pushIndex_of_lt (b := (a.other m u).block) hlt]
    exact .inl ⟨_, Memory.write m a.block.plen.val v, _, rfl, rfl, hm.write v⟩
  · rw [pushIndex_of_le hle, pushIndex_of_le (b := (a.other m u).block) hle]
    exact .inl ⟨_, m, _, rfl, rfl, hm.of_le hle _⟩

theorem answersAlike_exec (hr : Reachable a.block) (i : Instr) :
    AnswersAlike a (a.other m u) (exec i a) (exec i (a.other m u)) := by
  cases i with
  | crcInit | crcByte _ =>
    exact answersAlike_whenIdle hm (answersAlike_respond hm (a.setCrc _).block _ _)
  | frmClear =>
    have hnone : Memory.AgreeBelow 0 a.block.pbuf m := fun _ h => absurd h (Nat.not_lt_zero _)
    exact answersAlike_whenIdle hm (.inl ⟨_, m, _, rfl, rfl, hnone⟩)
  | frmPush v => exact answersAlike_frmPush hm v
  | frmStart =>
    have hplen : (a.other m u).block.plen = a.block.plen := rfl
    refine answersAlike_whenIdle hm ?_
    rw [hplen]
    split
    · exact answersAlike_respond hm a.block _ _
    · exact answersAlike_respond hm ((a.setSequencer _ _).setCrc _).block _ _
  | frmNext => exact answersAlike_execFrmNext hm hr
  | crcRead | frmStat => exact answersAlike_respond hm a.block _ _
  | timBaud sel =>
    simp only [exec, execTimBaud]
    cases legalSelector sel with
    | some r => exact answersAlike_respond hm (a.setBaudSel _).block _ _
    | none => exact answersAlike_respond hm a.block _ _
  | timMult k =>
    simp only [exec, execTimMult]
    cases legalMultiplier k with
    | some r => exact answersAlike_respond hm (a.setMult _).block _ _
    | none => exact answersAlike_respond hm a.block _ _
  | timRdmin => exact answersAlike_respondInterval hm a.minint
  | timRdint => exact answersAlike_respondInterval hm a.interval
  | timRdchoice k =>
    simp only [exec, execTimRdchoice]
    cases legalMultiplier k with
    | some r => exact answersAlike_respondInterval hm (a.minint.map _)
    | none => exact answersAlike_respond hm a.block _ _

theorem answersAlike_runCommand (hr : Reachable a.block) (w : CommandWord) :
    AnswersAlike a (a.other m u) (runCommand w a) (runCommand w (a.other m u)) := by
  unfold runCommand
  split
  · exact answersAlike_exec hm hr _
  · exact answersAlike_respond hm a.block _ _

end

/-- Settles O54: the second machine is the first but for its buffer above `PLEN`, which only a read at or
above `PLEN` would show; the index of a reachable block is below it. -/
theorem unreadCellsAreUnobservable : Obligations.UnreadCellsAreUnobservable := by
  intro a b a' w restA restB hra _ hagree hparam hina hinb hstep
  have hb : { b with inputs := restB } = State.other { a with inputs := restA } b.block.pbuf
      { b with inputs := restB } := State.eq_other hagree hparam
  rw [step_of_inputs hina] at hstep
  rw [step_of_inputs hinb, hb]
  obtain ⟨x, m, r, hk, hk', hx⟩ | ⟨f, hk, -⟩ := answersAlike_runCommand
    (a := { a with inputs := restA }) (u := { b with inputs := restB })
    (Block.agreeBelow_of_agree hagree) hra w
  · cases hstep.symm.trans hk
    exact ⟨_, r, hk', rfl, rfl, Block.agree_of_agreeBelow hx⟩
  · cases hstep.symm.trans hk

end Sys2Proof.Machine
end

section
/-! A buffer that is filled and overfilled (43_framer.md R68, R73): what is kept of the bytes pushed, and
what an overfull buffer answers. -/

namespace Sys2Proof.Machine

/-! ### What is kept of the bytes pushed -/

section
variable {b : Block}

theorem Block.plen_push (b : Block) (v : Byte) : (b.push v).plen.val = min (b.plen.val + 1) 256 := by
  obtain h | h := Nat.lt_or_ge b.plen.val 255
  · rw [Block.push_of_lt h, Nat.min_eq_left (by omega)]
    rfl
  · rw [Block.push_of_le h, Nat.min_eq_right (by omega)]
    rfl

theorem Block.plen_pushAll (b : Block) (vs : List Byte) :
    (b.pushAll vs).plen.val = min (b.plen.val + vs.length) 256 := by
  induction vs generalizing b with
  | nil => exact (Nat.min_eq_left (Nat.le_of_lt_succ b.plen.isLt)).symm
  | cons v vs ih =>
    have hih : (b.pushAll (v :: vs)).plen.val = _ := ih (b.push v)
    rw [hih, Block.plen_push, List.length_cons]
    omega

theorem Block.pushAll_eq (b : Block) (vs : List Byte) :
    b.pushAll vs = { b with pbuf := (b.pushAll vs).pbuf, plen := (b.pushAll vs).plen } := by
  induction vs generalizing b with
  | nil => rfl
  | cons v vs ih =>
    have hih : b.pushAll (v :: vs) = _ := ih (b.push v)
    rw [hih, b.push_eq v]

/-- Without room nothing is stored (R68). -/
theorem Block.pbuf_pushAll_of_le (h : 255 ≤ b.plen.val) (vs : List Byte) :
    (b.pushAll vs).pbuf = b.pbuf := by
  induction vs generalizing b with
  | nil => rfl
  | cons v vs ih =>
    have hpush := Block.push_of_le h v
    exact (ih (b := b.push v) (by rw [hpush]; exact Nat.le_succ 255)).trans (by rw [hpush])

/-- From an empty buffer on, the bytes after the 255th are not stored. -/
theorem Block.pbuf_pushAll_take (h : b.plen.val = 0) (vs : List Byte) :
    (b.pushAll vs).pbuf = (b.pushAll (vs.take 255)).pbuf := by
  obtain hle | hgt := le_or_gt vs.length 255
  · rw [List.take_of_length_le hle]
  · have hsplit : b.pushAll vs = (b.pushAll (vs.take 255)).pushAll (vs.drop 255) := by
      rw [Block.pushAll, Block.pushAll, Block.pushAll, ← List.foldl_append, List.take_append_drop]
    rw [hsplit, Block.pbuf_pushAll_of_le]
    rw [Block.plen_pushAll, h, List.length_take]
    omega

theorem Block.pbufPrefix_pushAll (h : b.plen.val = 0) (vs : List Byte) :
    (b.pushAll vs).pbufPrefix (min vs.length 255) = vs.take 255 := by
  have hlen : (vs.take 255).length = min vs.length 255 := by rw [List.length_take, Nat.min_comm]
  have hplen : (b.pushAll (vs.take 255)).plen.val = min vs.length 255 := by
    rw [Block.plen_pushAll, h, hlen]
    omega
  calc (b.pushAll vs).pbufPrefix (min vs.length 255)
    _ = (b.pushAll (vs.take 255)).payload := by
      rw [Block.payload, hplen, Block.pbufPrefix, Block.pbufPrefix, Block.pbuf_pushAll_take h]
    _ = b.payload ++ vs.take 255 := Block.payload_pushAll (by rw [h, hlen]; omega)
    _ = vs.take 255 := by rw [Block.payload, h, Block.pbufPrefix_zero, List.nil_append]

end

theorem run_payloadScript {s : State} (h : s.block.phase = .idle) (p : List Byte) :
    s.run (payloadScript p) = .next ((s.clear.pushed p).issue []) := by
  have hpush := run_map_frmPush_append (s := s.clear) h p []
  rw [List.append_nil] at hpush
  exact (State.run_cons (exec_frmClear_of_idle (s := s.issue _) h)).trans hpush

/-- Settles O33: the bytes pushed are counted by `plen_pushAll` and kept by `pbufPrefix_pushAll`. -/
theorem pushesAreCountedAndStored : Obligations.PushesAreCountedAndStored := by
  intro s p h
  refine ⟨_, run_payloadScript h p, ?_, ?_, Block.pbufPrefix_pushAll (b := s.clear.block) rfl p,
    Block.pushAll_eq s.clear.block p⟩
  · simp [State.issue, State.pushed, State.clear, State.answerOk, List.replicate_succ]
  · have hempty : s.clear.block.plen.val + p.length = p.length := Nat.zero_add _
    exact (Block.plen_pushAll s.clear.block p).trans (by rw [hempty])

/-! ### The overfull buffer -/

section
variable {s : State}

/-- In `IDLE` every command answers: the index does not move. -/
theorem exec_next_of_idle (h : s.block.phase = .idle) (i : Instr) : ∃ t, exec i s = .next t := by
  cases hi : bystander i with
  | true =>
    obtain ⟨t, ht, -⟩ := exec_of_bystander hi s
    exact ⟨t, ht⟩
  | false =>
    cases i with
    | crcInit => exact ⟨_, exec_crcInit_of_idle h⟩
    | crcByte v => exact ⟨_, exec_crcByte_of_idle h v⟩
    | frmClear => exact ⟨_, exec_frmClear_of_idle h⟩
    | frmPush v => exact ⟨_, exec_frmPush_of_idle h v⟩
    | frmStart =>
      obtain hp | hp := le_or_gt s.block.plen.val 255
      · exact ⟨_, exec_frmStart_of_idle h hp⟩
      · exact ⟨_, exec_frmStart_of_oversize h (by omega)⟩
    | frmNext => exact ⟨_, exec_frmNext_idle h⟩
    | crcRead | frmStat | timBaud _ | timMult _ | timRdmin | timRdint | timRdchoice _ => cases hi

/-- `IDLE` with more than 255 bytes pushed lasts until `FRM.CLEAR` (R73). -/
theorem Writes.of_oversize {b b' : Block} {i : Instr} (h : Writes b i b') (hclear : i ≠ .frmClear)
    (hidle : b.phase = .idle) (hp : b.plen.val = 256) : b'.phase = .idle ∧ b'.plen.val = 256 := by
  cases h with
  | frmClear => exact absurd rfl hclear
  | frmPush _ v => rw [Block.push_of_le (by omega)]; exact ⟨hidle, rfl⟩
  | frmStart _ hle => omega
  | frmNext hbusy => exact absurd hidle hbusy
  | nothing | crcInit | crcByte | timBaud | timMult => exact ⟨hidle, hp⟩

theorem run_of_oversize {is : List Instr} (hclear : .frmClear ∉ is) (hidle : s.block.phase = .idle)
    (hp : s.block.plen.val = 256) :
    ∃ t, s.run is = .next t ∧ t.block.phase = .idle ∧ t.block.plen.val = 256 := by
  induction is generalizing s with
  | nil => exact ⟨s.issue [], rfl, hidle, hp⟩
  | cons i is ih =>
    obtain ⟨hi, his⟩ := not_or.1 (mt List.mem_cons.2 hclear)
    obtain ⟨u, hexec⟩ := exec_next_of_idle (s := s.issue is) hidle i
    obtain ⟨hidle', hp'⟩ := (exec_writes hexec).of_oversize (Ne.symm hi) hidle hp
    obtain ⟨t, hrun, ht⟩ := ih his hidle' hp'
    exact ⟨t, (State.run_cons_of_exec hexec).trans hrun, ht⟩

end

/-- Settles O34: 256 pushes fill `PLEN` to 256, which lasts, and in which there is no frame. -/
theorem oversizePayloadEmitsNothing : Obligations.OversizePayloadEmitsNothing := by
  intro s p h hlen
  have hphase : (s.clear.pushed p).block.phase = .idle := (Block.pushAll_phase _ p).trans h
  have hplen : (s.clear.pushed p).block.plen.val = 256 :=
    (Block.plen_pushAll s.clear.block p).trans (Nat.min_eq_right (by omega))
  refine ⟨_, run_payloadScript h p, hphase, fun u is hclear hu => ?_⟩
  obtain ⟨v, hrun, hv, hv'⟩ := run_of_oversize hclear (hu ▸ hphase) (hu ▸ hplen)
  exact ⟨v, hrun, hv, hv', exec_frmStart_of_oversize hv hv', exec_frmNext_idle hv⟩

end Sys2Proof.Machine
end

section
/-! A transmission run of the host (45_scheduler.md R93 to R96), one loop evaluation at a time. -/

namespace Sys2Proof.Machine

/-- The session of a run of `p` after `k` sends that succeeded. -/
def Plan.sessionAfter (p : Plan) (k : Nat) : Session where
  plan := p
  remainingBudgetMillis := p.durationSeconds * 1000 - k * p.intervalMillis
  packetsSent := k

/-- `s` in a run of `p` after `k` sends that succeeded (`run_loop_true`). -/
def State.afterSends (s : State) (p : Plan) (k : Nat) : State :=
  { s with host := { s.host with
      session := some (p.sessionAfter k), sent := s.host.sent ++ List.replicate k p.frame } }

theorem Plan.sessionAfter_zero (p : Plan) : p.sessionAfter 0 = openSession p := by
  simp [Plan.sessionAfter, openSession]

theorem Plan.sessionAfter_afterSend (p : Plan) (k : Nat) :
    (p.sessionAfter k).afterSend = p.sessionAfter (k + 1) := by
  have hbudget : p.durationSeconds * 1000 - k * p.intervalMillis - p.intervalMillis =
      p.durationSeconds * 1000 - (k + 1 : Nat) * p.intervalMillis := by
    push_cast
    ring
  simp only [Plan.sessionAfter, Session.afterSend, hbudget]

theorem State.afterSends_zero (s : State) (p : Plan) :
    s.afterSends p 0 = { s with host := { s.host with session := some (openSession p) } } := by
  simp [State.afterSends, Plan.sessionAfter_zero]

/-- There is budget for one more send exactly while fewer than `ceil(duration / interval)` have been made
(R94). -/
theorem lt_packetCount_iff {p : Plan} (h : p.valid = true) {k : Nat} :
    k < packetCount p ↔ 0 < (p.sessionAfter k).remainingBudgetMillis := by
  obtain ⟨-, -, hint⟩ := Plan.valid_iff.1 h
  have hsucc : ((k : Int) + 1) * p.intervalMillis = k * p.intervalMillis + p.intervalMillis := by ring
  rw [packetCount, Int.lt_toNat, Int.lt_iff_add_one_le, Int.le_ediv_iff_mul_le (by omega), hsucc]
  simp only [Plan.sessionAfter]
  omega

/-- The sends that the budget allows take the whole duration, and less than an interval more (R94). -/
theorem packetCount_mul_bounds {p : Plan} (h : p.valid = true) :
    p.durationSeconds * 1000 ≤ packetCount p * p.intervalMillis ∧
      packetCount p * p.intervalMillis < p.durationSeconds * 1000 + p.intervalMillis := by
  have hspent := mt (lt_packetCount_iff h).2 (lt_irrefl _)
  refine ⟨not_lt.1 (mt sub_pos.2 hspent), ?_⟩
  cases hn : packetCount p with
  | zero =>
    obtain ⟨hlow, -, hint⟩ := Plan.valid_iff.1 h
    rw [Nat.cast_zero, zero_mul]
    omega
  | succ m =>
    have hbudget := sub_pos.1 ((lt_packetCount_iff (k := m) h).1 (by omega))
    rw [Nat.cast_succ, add_mul, one_mul]
    omega

/-! ### The run -/

theorem run_succ_of_step {n : Nat} {s t : State} (h : step s = .next t) :
    core.run (n + 1) s = core.run n t := by
  have hstep : core.step s = .next t := h
  simp only [Host.Core.run, hstep]

section
variable {s : State} {p : Plan} {k : Nat} {rest : List Input}

theorem step_loop_true (h : p.valid = true) (hk : k < packetCount p) :
    step { s.afterSends p k with inputs := .loop true :: rest } =
      .next { s.afterSends p (k + 1) with inputs := rest } := by
  have hgoes := sessionLoop_send ((lt_packetCount_iff h).1 hk)
  rw [p.sessionAfter_afterSend] at hgoes
  have hloop := loopOnce_of_goesOn (s := { s.afterSends p k with inputs := rest }) rfl hgoes
  rw [step_of_inputs rfl]
  refine hloop.trans ?_
  simp only [State.afterSends, List.replicate_succ', List.append_assoc]
  rfl

theorem step_loop_end {sendOk : Bool} {r : RunResult}
    (h : sessionLoop (p.sessionAfter k) sendOk = .ends r) :
    step { s.afterSends p k with inputs := .loop sendOk :: rest } =
      .next { s.afterSends p k with inputs := rest, host := (s.afterSends p k).host.endRun r } :=
  loopOnce_of_ends (s := { s.afterSends p k with inputs := rest }) rfl h

theorem run_replicate_loop_true (h : p.valid = true) {m : Nat} (n : Nat) (hk : k + m ≤ packetCount p) :
    core.run (m + n) { s.afterSends p k with inputs := List.replicate m (.loop true) ++ rest } =
      core.run n { s.afterSends p (k + m) with inputs := rest } := by
  induction m generalizing k with
  | zero => rw [Nat.zero_add]; rfl
  | succ m ih =>
    calc core.run (m + 1 + n)
          { s.afterSends p k with inputs := .loop true :: (List.replicate m (.loop true) ++ rest) }
      _ = core.run (m + n)
          { s.afterSends p (k + 1) with inputs := List.replicate m (.loop true) ++ rest } := by
        rw [Nat.add_right_comm]
        exact run_succ_of_step (step_loop_true h (by omega))
      _ = core.run n { s.afterSends p (k + 1 + m) with inputs := rest } := ih (by omega)
      _ = core.run n { s.afterSends p (k + (m + 1)) with inputs := rest } := by
        rw [Nat.add_assoc, Nat.add_comm 1]

/-- A run of `k` sends that succeed and one evaluation that ends it. -/
theorem run_until_end (h : p.valid = true) (hk : k ≤ packetCount p) {sendOk : Bool} {r : RunResult}
    (hr : sessionLoop (p.sessionAfter k) sendOk = .ends r) :
    core.run (k + 1)
        { s.afterSends p 0 with inputs := List.replicate k (.loop true) ++ [.loop sendOk] } =
      .next { s.afterSends p k with inputs := [], host := (s.afterSends p k).host.endRun r } := by
  rw [run_replicate_loop_true h 1 (by omega), Nat.zero_add]
  exact run_succ_of_step (step_loop_end hr)

end

/-- Settles O55: the loop sends while there is budget, which is `packetCount` times, and then completes. -/
theorem runSendsPacketCountFrames : Obligations.RunSendsPacketCountFrames := by
  intro s d i f hlow hhigh hint hnone
  let p : Plan := ⟨d, i, f⟩
  have hv : p.valid = true := Plan.valid_iff.2 ⟨hlow, hhigh, hint⟩
  obtain ⟨henough, hleast⟩ := packetCount_mul_bounds hv
  have hbegin : step { s with inputs := .beginRun d i f ::
        (List.replicate (packetCount p) (.loop true) ++ [.loop true]) } =
      .next { s.afterSends p 0 with
        inputs := List.replicate (packetCount p) (.loop true) ++ [.loop true] } := by
    rw [step_of_inputs rfl, State.afterSends_zero]
    exact beginRun_of_valid (s := { s with inputs := _ }) hnone hv
  have hspent := mt (lt_packetCount_iff hv).2 (lt_irrefl _)
  have hrun := (run_succ_of_step hbegin).trans
    (run_until_end hv le_rfl (sessionLoop_complete (not_lt.1 hspent) true))
  rw [← List.replicate_succ'] at hrun
  exact ⟨packetCount p, _, henough, hleast, hrun, rfl, rfl, rfl, rfl, rfl⟩

/-- Settles O56: each of the first `k` sends has budget, and so has the one that fails. -/
theorem failedSendEndsRun : Obligations.FailedSendEndsRun := by
  intro s p k hv hk hsession
  have hs : s.afterSends p 0 = s := by
    rw [State.afterSends_zero, ← hsession]
  have hrun := run_until_end (s := s) hv hk.le (sessionLoop_fail ((lt_packetCount_iff hv).1 hk))
  rw [hs] at hrun
  exact ⟨_, hrun, rfl, rfl, rfl, rfl⟩

end Sys2Proof.Machine
end

section
/-! How the host gets its plan out of the block (45_scheduler.md R98, 30_encoding.md R48). -/

namespace Sys2Proof.Machine

theorem startAnswer_of_idle {b : Block} {n : Nat} (h : b.phase = .idle) (hn : n ≤ 255) :
    startAnswer b n = .ok := by
  rw [startAnswer, if_neg (not_not.2 h)]
  exact if_pos hn

/-- What `TIM.BAUD` and `TIM.MULT` with legal operands make of `s`. -/
def State.select (s : State) (r : Fin 6) (m : Fin 11) : State :=
  ((s.setBaudSel (.selected r)).answerOk.setMult m).answerOk

/-- `s` with one more answer `OK`, with data. -/
def State.answerData (s : State) (v : ResponseData) : State :=
  { s with responses := s.responses ++ [⟨.ok, v⟩] }

/-- `INTERVAL` (30_encoding.md R48) selects, and reads the interval of the selection. -/
theorem run_intervalScript_append (s : State) {sel : BitVec 3} {k : BitVec 4} (hsel : sel.toNat < 6)
    (h1 : 1 ≤ k.toNat) (h2 : k.toNat ≤ 10) (is : List Instr) :
    ∃ v : ResponseData,
      v.toNat = k.toNat * minIntervalFor s.maxPayloadBytes.val (baudOf ⟨sel.toNat, hsel⟩) ∧
      s.run (intervalScript sel k ++ is) =
        ((s.select ⟨sel.toNat, hsel⟩ ⟨k.toNat, by omega⟩).answerData v).run is := by
  let r : Fin 6 := ⟨sel.toNat, hsel⟩
  let m : Fin 11 := ⟨k.toNat, by omega⟩
  obtain ⟨-, hreads⟩ := timRdintReadsChosenInterval
  obtain ⟨hread, -⟩ := hreads ((s.select r m).issue is)
  obtain ⟨v, hv, -, hexec⟩ := hread r rfl (Nat.ne_of_gt h1)
  refine ⟨v, hv, ?_⟩
  calc s.run (.timBaud sel :: .timMult k :: .timRdint :: is)
    _ = (s.setBaudSel (.selected r)).answerOk.run (.timMult k :: .timRdint :: is) :=
      State.run_cons (exec_timBaud_of_lt hsel _)
    _ = (s.select r m).run (.timRdint :: is) := State.run_cons (exec_timMult_of_mem h1 h2 _)
    _ = ((s.select r m).answerData v).run is := State.run_cons hexec

/-! ### What the host reads out of the responses -/

/-- The responses to the preparation of a plan, where the interval read is `v`. -/
def preparationResponses (v : ResponseData) (p : List Byte) : List Response :=
  [⟨.ok, 0⟩, ⟨.ok, 0⟩, ⟨.ok, v⟩] ++ List.replicate (p.length + 2) ⟨.ok, 0⟩ ++ frameResponses p

theorem status_of_mem_preparationResponses {v : ResponseData} {p : List Byte} {r : Response}
    (h : r ∈ preparationResponses v p) : r.status = .ok := by
  obtain h | h := List.mem_append.1 h
  · obtain h | h := List.mem_append.1 h
    · simp only [List.mem_cons, List.not_mem_nil, or_false] at h
      obtain rfl | rfl | rfl := h <;> rfl
    · rw [List.eq_of_mem_replicate h]
  · exact status_of_mem_frameResponses h

/-- The last `9 + len(p)` responses are those of the frame. -/
theorem collectBytes_preparationResponses (v : ResponseData) (p : List Byte) :
    collectBytes (frameLength p.length) (preparationResponses v p) = frame p := by
  have hdrop : (preparationResponses v p).length - frameLength p.length =
      ([⟨.ok, 0⟩, ⟨.ok, 0⟩, ⟨.ok, v⟩] ++
        List.replicate (p.length + 2) ⟨.ok, 0⟩ : List Response).length := by
    rw [preparationResponses, List.length_append, length_frameResponses]
    exact Nat.add_sub_cancel _ _
  rw [collectBytes, hdrop, preparationResponses, List.drop_left, frameResponses_map_frameByte]

theorem planFromResponses_preparationResponses (d : Int) (v : ResponseData) (p : List Byte) :
    planFromResponses d p.length (preparationResponses v p) = some (.beginRun d v.toNat (frame p)) := by
  have hok : (preparationResponses v p).all (fun r => r.status == .ok) = true :=
    List.all_eq_true.2 fun r hr => beq_of_eq (status_of_mem_preparationResponses hr)
  have hinterval : intervalRead (preparationResponses v p) = some (v.toNat : Int) := rfl
  rw [planFromResponses, if_pos hok, hinterval, Option.map_some, collectBytes_preparationResponses]

/-- The response to `FRM.START` is the one before those of the frame. -/
theorem preparationResponses_getElem?_start (v : ResponseData) (p : List Byte) :
    (preparationResponses v p)[4 + p.length]? = some ⟨.ok, 0⟩ := by
  have hindex : 4 + p.length = p.length + 1 + 3 := by omega
  calc (preparationResponses v p)[4 + p.length]?
    _ = (List.replicate (p.length + 2) ⟨.ok, 0⟩ ++ frameResponses p)[p.length + 1]? := by
      rw [hindex]
      rfl
    _ = some ⟨.ok, 0⟩ := by
      rw [List.getElem?_append_left (by simp), List.getElem?_replicate_of_lt (by omega)]

theorem planFromResponses_of_error {d : Int} {n : Nat} {rs : List Response} {r : Response}
    (hr : r ∈ rs) (hstatus : r.status ≠ .ok) : planFromResponses d n rs = none := by
  refine if_neg fun hall => hstatus ?_
  exact eq_of_beq (List.all_eq_true.1 hall r hr)

/-- Settles O58: the interval and the frame are run one after the other, and their responses read. -/
theorem hostReadsPlanFromBlock : Obligations.HostReadsPlanFromBlock := by
  refine ⟨?_, fun _ _ _ _ _ _ => ⟨rfl, rfl⟩, fun c d rs answers r hr hstatus => ?_⟩
  · rintro s sel k p d ⟨_, hsel⟩ ⟨-, h⟩ hp rfl h1 h2
    rw [startAnswer_of_idle h hp]
    obtain ⟨v, hv, hrun⟩ := run_intervalScript_append s hsel h1 h2 (frameScript .ok p)
    have hframe := run_frameScript
      (s := (s.select ⟨sel.toNat, hsel⟩ ⟨k.toNat, by omega⟩).answerData v) h hp
    refine ⟨_, preparationResponses v p, hrun.trans hframe, ?_,
      preparationResponses_getElem?_start v p, ?_⟩
    · refine (State.framed_responses _ hp).trans ?_
      simp [State.answerData, State.select, State.answerOk, preparationResponses]
    · rw [← hv]
      exact planFromResponses_preparationResponses d v p
  · simp only [selectionRun, planFromResponses_of_error hr hstatus]

end Sys2Proof.Machine
end

section
/-! The port, reset, the codes and the status bits, each as its rule has it (00_scope.md R4,
70_reset_and_hazards.md R115, 60_exceptions.md R100, 10_state.md R23). -/

namespace Sys2Proof.Machine

theorem withFetchWord_sixteen (s : State) (w : CommandWord) :
    s.withFetchWord 16 w.toNat = placeCommand w s := by
  rw [State.withFetchWord, Nat.mod_eq_of_lt w.isLt, BitVec.ofNat_toNat, BitVec.setWidth_eq]

/-- Settles O6: the first pending input is the word, which decodes. -/
theorem stepRunsDecodedCommand : Obligations.StepRunsDecodedCommand := by
  refine ⟨fun s w i rest hin hi => ?_, fun s w i hi => ?_⟩
  · rw [step_of_inputs hin]
    exact runCommand_of_decode_ok hi _
  · rw [withFetchWord_sixteen]
    exact runCommand_of_decode_ok hi s

/-- Settles O10: the four kinds of step that run nothing. -/
theorem idlePortHoldsAndMeaninglessInputsAreRefused :
    Obligations.IdlePortHoldsAndMeaninglessInputsAreRefused := by
  refine fun s => ⟨fun hin => ?_, fun w rest => ⟨step_of_inputs, step_of_inputs, step_of_inputs⟩⟩
  simp only [step, stepInputs, hin]

/-- Settles O13: the reset state of the block, read off. -/
theorem resetFromAnyState : Obligations.ResetFromAnyState :=
  fun _ _ hin => ⟨_, step_of_reset hin, rfl, rfl, rfl, rfl, rfl, rfl, rfl, rfl, rfl⟩

/-- Settles O12: the names in the order of the tables, and each number its own code. -/
theorem codesAreAsTabled : Obligations.CodesAreAsTabled :=
  ⟨rfl, rfl, rfl, baudSelCode_selected, multCode_toNat, plenCode_toNat, idxCode_toNat⟩

/-- Settles O16: bit 15 is the most significant one. -/
theorem crcBitStep : Obligations.CrcBitStep := by
  intro c d
  have htop : c.getMsbD 0 = c.getLsbD 15 := rfl
  rw [crcBit, htop]
  rfl

/-! ### The status bits -/

theorem Block.busy_iff (b : Block) : b.busy = true ↔ b.phase ≠ .idle := bne_iff_ne

/-- Nine bits hold `PLEN`, and the highest of them is set for 256 alone. -/
theorem Block.ovf_iff (b : Block) : b.ovf = true ↔ b.plen.val = 256 := by
  have hmsb : b.ovf = (plenCode b.plen).msb := rfl
  rw [hmsb, BitVec.msb_eq_decide, plenCode_toNat, decide_eq_true_iff]
  omega

/-- A response of `FRM.NEXT` carries `last` exactly in `CRC_LO` (43_framer.md R70). -/
theorem exec_frmNext_response {s t : State} (h : exec .frmNext s = .next t) :
    ∃ st out, t.responses =
      s.responses ++ [⟨st, frameByteData out (decide (s.block.phase = .crcLo))⟩] := by
  obtain ⟨hidle, rfl⟩ | ⟨-, out, c, p, i, rfl, -⟩ := execFrmNext_cases h
  · exact ⟨_, 0, by rw [hidle]; rfl⟩
  · exact ⟨_, out, rfl⟩

/-- Settles O11: the bits of the block by their codes, `last` by the response data. -/
theorem statusBitsAreFunctionsOfState : Obligations.StatusBitsAreFunctionsOfState := by
  refine ⟨fun b => ⟨b.busy_iff, b.ovf_iff, decide_eq_true_iff⟩, fun s t r hexec hr => ?_⟩
  obtain ⟨st, out, ht⟩ := exec_frmNext_response hexec
  have hsingle := List.append_cancel_left (hr.symm.trans ht)
  rw [List.singleton_inj.1 hsingle, last_frameByteData, decide_eq_true_iff]

/-- Settles O59: the six divisions of R82 are exact, and the frame is 264 bytes of 8 bits. -/
theorem minIntervalIsFrameAndGuard : Obligations.MinIntervalIsFrameAndGuard := by
  intro r
  have hrate := baudOf_ge r
  have hbaud : (baudOf r : ℚ) ≠ 0 := by
    rw [Nat.cast_ne_zero]
    omega
  have hexact : (minInterval r : ℚ) * baudOf r = 5280000 := by
    exact_mod_cast minInterval_mul_baudOf r
  rw [airTimeMillis, frameLength, ← mul_div_assoc, eq_div_iff hbaud, hexact]
  norm_num

end Sys2Proof.Machine
end
